-- ==== Sys2Proof/Word.lean ====
section
/-! DEFINITION. The widths of the values MIXR works on (00_scope.md R15, R17). -/

namespace Sys2Proof

/-- A byte of destination memory or of the unroll buffer's byte image. -/
abbrev Byte := BitVec 8

/-- A 32-bit value (`u32`): a command word, a half of a raw word, a binary32 encoding. -/
abbrev Half := BitVec 32

/-- A 64-bit value (`u64`): every register of the window, a raw word, a binary64 encoding. -/
abbrev Word := BitVec 64

/-- A 128-bit value (`u128`): an exact product, the OUT register pair. -/
abbrev Quad := BitVec 128

end Sys2Proof
end

