-- ==== Sys2Proof/Config.lean ====
section
/-! DEFINITION. The build and platform parameters of MIXR (00_scope.md R5 to R13), their defaults, and the free
values: the constants without a body that stand for what the spec leaves open. -/

namespace Sys2Proof

/-- The closed set of mixing strategies (00_scope.md R2, R5; 40_mixer.md R75). Code 3 has no member, so a
configuration or a command with strategy code 3 cannot be written down (R14). -/
inductive Strategy where
  | a2   -- code 0, the "128-bit double-fold variant"
  | a1   -- code 1, the "single-fold variant"
  | b    -- code 2, the "xxh3-derived mix"
deriving DecidableEq, Repr

/-- SCALE_MODE (00_scope.md R10): which scale constants the conversion pipeline uses. -/
inductive ScaleMode where
  | doc    -- 0, reciprocals of 2^53 - 1 and 2^21 - 1
  | pow2   -- 1, 2^-53 and 2^-21
deriving DecidableEq, Repr

/-- The implementation parameters (00_scope.md R5 to R13). They are fixed when the block is built; State carries
them as plain data so that every statement covers every build. -/
structure Config where
  /-- ENG_STRAT, R5. -/
  engStrat : Strategy
  /-- ENG_UNROLL, R6: the unroll count N. -/
  engUnroll : Nat
  /-- VEC_EN, R7. -/
  vecEn : Bool
  /-- VEC_LANES64, R8. -/
  vecLanes64 : Nat
  /-- FILL_UNROLL, R9. -/
  fillUnroll : Nat
  /-- SCALE_MODE, R10. -/
  scaleMode : ScaleMode
  /-- DEFAULT_SEED, R11; read as DSEED. -/
  defaultSeed : Word
  /-- ADDR_W, R12. -/
  addrW : Nat
  /-- BASE, R13: no rule of MIXR reads it. -/
  base : Nat
  /-- DEST_COHERENT, R13: it appears only in the host duties of 20_memory.md R57. -/
  destCoherent : Bool
deriving DecidableEq, Repr

/-- The default configuration (00_scope.md R5 to R12; 95_test_vectors.md, opening). BASE and DEST_COHERENT have no
default in the spec: DESIGN CHOICE, log entry 1 (safe: no rule of MIXR reads them). -/
def Config.default : Config where
  engStrat := .a2
  engUnroll := 0
  vecEn := false
  vecLanes64 := 0
  fillUnroll := 8
  scaleMode := .doc
  defaultSeed := 0x539#64
  addrW := 64
  base := 0
  destCoherent := true

/-- FREE VALUE (log entry 6): a 64-bit value the spec leaves open, the `n`-th one drawn in a run. It has no body, so
nothing can be proved of it. Used for FSTATE after a FILL (10_state.md R32). -/
opaque Config.freeWord : Nat → Word

/-- FREE VALUE (log entries 8 and 9): whether element `i` holds its new value after the `n`-th open point of a run.
Used after a bus error (60_exceptions.md R133) and after a reset during a FILL (70_reset_and_hazards.md R147). -/
opaque Config.freeBit : Nat → Nat → Bool

end Sys2Proof
end

