-- ==== Sys2Proof/Syntax.lean ====
section
/-! DEFINITION. The commands of MIXR: one constructor per row of the opcode map (30_encoding.md R66). No command has
an operand field (R65), so no constructor has an argument. -/

namespace Sys2Proof

/-- A MIXR command (30_encoding.md R66). -/
inductive Instr where
  | mixpA2     -- MIXP.A2,   R78
  | mixpA1     -- MIXP.A1,   R79
  | mixpB      -- MIXP.B,    R80
  | seed       -- SEED,      R87
  | drawB      -- DRAW.B,    R88
  | drawH      -- DRAW.H,    R89
  | drawW      -- DRAW.W,    R90
  | drawD      -- DRAW.D,    R91
  | drawQ      -- DRAW.Q,    R92
  | cvtD       -- CVT.D,     R103
  | cvtS       -- CVT.S,     R104
  | cvtS2      -- CVT.S2,    R105
  | cvtSfix    -- CVT.SFIX,  R106
  | fillDA2    -- FILL.D.A2, R120
  | fillDA1    -- FILL.D.A1, R121
  | fillDB     -- FILL.D.B,  R122
  | fillSA2    -- FILL.S.A2, R123
  | fillSA1    -- FILL.S.A1, R124
  | fillSB     -- FILL.S.B,  R125
deriving DecidableEq, Repr

/-- The element width of a FILL: FILL.D writes binary64, FILL.S binary32 (43_fill.md R107). -/
inductive ElemSize where
  | d   -- 8 bytes
  | s   -- 4 bytes
deriving DecidableEq, Repr

/-- The width of a bus access (20_memory.md R50). -/
inductive Width where
  | w8
  | w16
  | w32
  | w64
deriving DecidableEq, Repr

end Sys2Proof
end

