-- ==== Sys2Proof/WellFormed.lean ====
section
/-! DEFINITION. What must hold of a configuration before MIXR exists (00_scope.md R14) and of an MMIO access before
it has a meaning (20_memory.md R50). Commands have no operand fields (30_encoding.md R65), so every command is well
formed. -/

namespace Sys2Proof

/-- ENG_UNROLL is in [0, 64] (00_scope.md R6). -/
def Config.engUnrollOk (c : Config) : Bool := decide (c.engUnroll ≤ 64)

/-- FILL_UNROLL is in [1, 255] (00_scope.md R9). -/
def Config.fillUnrollOk (c : Config) : Bool := decide (1 ≤ c.fillUnroll ∧ c.fillUnroll ≤ 255)

/-- VEC_LANES64 is 0 without the vector path; with it, it is in [1, 16] and divides FILL_UNROLL
(00_scope.md R8, R14). -/
def Config.vecOk (c : Config) : Bool :=
  if c.vecEn then decide (1 ≤ c.vecLanes64 ∧ c.vecLanes64 ≤ 16 ∧ c.fillUnroll % c.vecLanes64 = 0)
  else decide (c.vecLanes64 = 0)

/-- DEFAULT_SEED is not 0 (00_scope.md R11). -/
def Config.defaultSeedOk (c : Config) : Bool := decide (c.defaultSeed ≠ 0#64)

/-- ADDR_W is in [1, 64] (00_scope.md R12). -/
def Config.addrWOk (c : Config) : Bool := decide (1 ≤ c.addrW ∧ c.addrW ≤ 64)

/-- BASE is a multiple of 256 (00_scope.md R13). -/
def Config.baseOk (c : Config) : Bool := decide (c.base % 256 = 0)

/-- A configuration is well formed: every parameter in its legal range, and the relations of 00_scope.md R14.
`ENG_STRAT ≠ 3` holds by the type `Strategy`. -/
def Config.wf (c : Config) : Bool :=
  c.engUnrollOk && c.fillUnrollOk && c.vecOk && c.defaultSeedOk && c.addrWOk && c.baseOk

/-- Every command is well formed: it has no immediate, register number or address field (30_encoding.md R65). -/
def Instr.wellFormed (i : Instr) : Bool :=
  match i with
  | .mixpA2 | .mixpA1 | .mixpB | .seed | .drawB | .drawH | .drawW | .drawD | .drawQ
  | .cvtD | .cvtS | .cvtS2 | .cvtSfix
  | .fillDA2 | .fillDA1 | .fillDB | .fillSA2 | .fillSA1 | .fillSB => true

/-- The number of bytes of an access. -/
def Width.bytes (w : Width) : Nat :=
  match w with
  | .w8 => 1
  | .w16 => 2
  | .w32 => 4
  | .w64 => 8

/-- The MMIO accesses the block supports: 32-bit at 4-byte-aligned offsets and 64-bit at 8-byte-aligned offsets
(20_memory.md R50). -/
def mmioSupported (w : Width) (off : BitVec 8) : Bool :=
  match w with
  | .w8 => false
  | .w16 => false
  | .w32 => off.toNat % 4 == 0
  | .w64 => off.toNat % 8 == 0

end Sys2Proof
end

