-- ==== Sys2Proof/Machine/State.lean ====
section
/-! DEFINITION. The state of MIXR: every piece of state the spec gives the block (10_state.md R22 to R45), destination
memory and the platform's map of it (20_memory.md R46, R54), and the model's own fields (the script of what the other
agents do, the answers of reads, the count of free values drawn). -/

namespace Sys2Proof.Machine

/-- Why the machine stops. MIXR itself takes no traps (60_exceptions.md R126): its errors are recorded in STATUS. -/
inductive Fault where
  /-- Raised by another agent's access to destination memory that reaches beyond the ADDR_W-bit address space
  (20_memory.md R46): there is no such address. Safe: the model stops. -/
  | noSuchAddress (addr : Nat)
deriving DecidableEq, Repr

/-- What the model does not admit. -/
inductive Refusal where
  /-- Raised by an arm of `exec` that has no meaning yet. Safe. No arm raises it. -/
  | notModelled (mnemonic : String)
  /-- Raised by `step` in a configuration that is not well formed (00_scope.md R14: "A model refuses any other
  configuration"). Safe. -/
  | badConfiguration
  /-- Raised by an 8-bit, 16-bit or misaligned MMIO access (20_memory.md R50: "A model refuses it"). Safe. -/
  | unsupportedAccess
  /-- Raised by a FILL whose destination touches a device region with write side effects (20_memory.md R53:
  "outside this spec"; 93_implementation_defined.md S19, `refuse`). Safe. -/
  | deviceTarget
  /-- Raised by another agent's access to a destination address that the platform's map does not give as ordinary
  memory (20_memory.md R54: "left to the platform"). Safe. -/
  | notOrdinaryMemory (addr : Nat)
deriving DecidableEq, Repr

/-- The outcome codes of STATUS.LASTERR (60_exceptions.md R131). Codes 5 to 15 are reserved and never produced, so
they have no member. -/
inductive ErrCode where
  | none      -- 0
  | illegal   -- 1
  | align     -- 2
  | range     -- 3
  | bus       -- 4
deriving DecidableEq, Repr

/-- The values of the four operand registers (10_state.md R23, R29, R30, R31). -/
structure Operands where
  arg0 : Word
  fdst : Word
  fcount : Word
  fseed : Word
deriving DecidableEq, Repr

/-- The in-flight command record (10_state.md R41), with the model's own bookkeeping of a FILL (log entries 4 and 7):
the elements that the fill writer has already performed, and how many mixing steps FSTATE has taken. -/
structure InFlight where
  word : Half
  ops : Operands
  written : List Nat
  mixed : Nat
deriving DecidableEq, Repr

/-- What the platform says of a range of destination addresses that is not ordinary writable memory. -/
inductive RegionKind where
  | refuses   -- element writes come back as bus errors (60_exceptions.md R133)
  | device    -- writes have side effects (20_memory.md R53)
deriving DecidableEq, Repr

/-- A range `[base, base + size)` of destination addresses that is not ordinary memory (20_memory.md R54). -/
structure Region where
  base : Nat
  size : Nat
  kind : RegionKind
deriving DecidableEq, Repr

/-- One thing another agent does, or one agent's turn, in the order the block sees them (20_memory.md R56,
70_reset_and_hazards.md R154). -/
inductive Event where
  /-- A host MMIO read of the register window at an offset from BASE. -/
  | read (w : Width) (off : BitVec 8)
  /-- A host MMIO write; a narrower write carries its value in the low bits. -/
  | write (w : Width) (off : BitVec 8) (v : Word)
  /-- The command unit completes the command in flight (60_exceptions.md R130). -/
  | unitTurn
  /-- The fill writer performs the write of element `i` of the FILL in flight (43_fill.md R112). -/
  | writerTurn (i : Nat)
  /-- The fill datapath performs one mixing step of the FILL in flight (43_fill.md R109, R118). -/
  | mixTurn
  /-- The platform asserts reset (70_reset_and_hazards.md R146, R147). -/
  | reset
  /-- The platform's map of destination memory changes (60_exceptions.md R133: which writes it refuses). -/
  | platform (regions : List Region)
  /-- Another agent reads destination memory (20_memory.md R57). -/
  | destRead (w : Width) (addr : Nat)
  /-- Another agent writes destination memory (20_memory.md R57). -/
  | destWrite (w : Width) (addr : Nat) (v : Word)
deriving DecidableEq, Repr

/-- What a read answered. -/
inductive Reply where
  | reg (w : Width) (off : BitVec 8) (v : Word)
  | dest (w : Width) (addr : Nat) (v : Word)
deriving DecidableEq, Repr

/-- Destination memory: the bytes that are not 0, addresses strictly rising (log entry 10). -/
abbrev Memory := List Host.Cell

/-- The whole machine. -/
structure State where
  /-- The build parameters: CFG and DSEED read them (10_state.md R38, R39). -/
  cfg : Config
  /-- STATUS.ERRS (10_state.md R34). -/
  errs : Bool
  /-- STATUS.DROP (10_state.md R35). -/
  drop : Bool
  /-- STATUS.LASTERR (10_state.md R36). -/
  lastErr : ErrCode
  /-- ARG0 (10_state.md R23). -/
  arg0 : Word
  /-- OUT_LO (10_state.md R25). -/
  outLo : Word
  /-- OUT_HI (10_state.md R25). -/
  outHi : Word
  /-- STATE, the engine state word (10_state.md R26). -/
  engState : Word
  /-- CURSOR, bits [9:0] (10_state.md R27). -/
  cursor : BitVec 10
  /-- BUF (10_state.md R28): ENG_UNROLL words in buffered mode, none otherwise. -/
  buf : List Word
  /-- FDST (10_state.md R29). -/
  fdst : Word
  /-- FCOUNT (10_state.md R30). -/
  fcount : Word
  /-- FSEED (10_state.md R31). -/
  fseed : Word
  /-- FSTATE, the fill's private state word (10_state.md R32). -/
  fstate : Word
  /-- The in-flight command record (10_state.md R41). STATUS.BUSY is 1 exactly when there is one (R33). -/
  inflight : Option InFlight
  /-- Destination memory (20_memory.md R46). -/
  mem : Memory
  /-- The ranges of destination addresses that are not ordinary memory (20_memory.md R54, log entry 11). -/
  regions : List Region
  /-- MODEL's own: what the other agents still do, in order (log entry 2). -/
  events : List Event
  /-- MODEL's own: the answers of reads so far, newest first (log entry 2). -/
  replies : List Reply
  /-- MODEL's own: how many free values have been drawn (log entry 6). -/
  draws : Nat
deriving DecidableEq, Repr

/-- The block of configuration `c` right after reset (70_reset_and_hazards.md R146): construction with seed 0 and
zeroed interface registers. FSTATE is DESIGN CHOICE 0 (log entry 5); memory holds 0 (log entry 10); no region is
listed (log entry 11). -/
def State.resetOf (c : Config) : State where
  cfg := c
  errs := false
  drop := false
  lastErr := .none
  arg0 := 0#64
  outLo := 0#64
  outHi := 0#64
  engState := c.defaultSeed
  cursor := if c.engUnroll > 1 then BitVec.ofNat 10 (8 * c.engUnroll) else 0#10
  buf := if c.engUnroll > 1 then List.replicate c.engUnroll 0#64 else []
  fdst := 0#64
  fcount := 0#64
  fseed := 0#64
  fstate := 0#64
  inflight := none
  mem := []
  regions := []
  events := []
  replies := []
  draws := 0

/-- The machine right after reset in the default configuration. -/
def State.reset : State := State.resetOf Config.default

end Sys2Proof.Machine
end

