-- ==== Sys2Proof/Machine/Ops.lean ====
section
/-! DEFINITION. The named operations over destination memory and over the registers, and the counterpart of taking an
exception: recording a command error (60_exceptions.md R128, R133, R134), with the counterpart of the return, the
host's clearing of the sticky flags, beside it (R135). -/

namespace Sys2Proof.Machine

/-! Destination memory. -/

/-- What a byte that memory does not list reads as: DESIGN CHOICE, log entry 10 (MIXR itself never reads destination
memory, 20_memory.md R46). -/
def Memory.unlisted : Byte := 0#8

/-- The byte at an address. -/
def Memory.read (m : Memory) (a : Nat) : Byte :=
  match m with
  | [] => Memory.unlisted
  | (k, b) :: rest => if k = a then b else Memory.read rest a

/-- Write one byte, keeping the canonical form: addresses strictly rising, no entry that reads as an unlisted byte. -/
def Memory.write (m : Memory) (a : Nat) (v : Byte) : Memory :=
  match m with
  | [] => if v = Memory.unlisted then [] else [(a, v)]
  | (k, b) :: rest =>
    if a < k then (if v = Memory.unlisted then (k, b) :: rest else (a, v) :: (k, b) :: rest)
    else if a = k then (if v = Memory.unlisted then rest else (a, v) :: rest)
    else (k, b) :: Memory.write rest a v

/-- Every address of `m` is above `lo`, strictly rising, and no entry reads as an unlisted byte. -/
def Memory.risesAbove (lo : Nat) (m : Memory) : Bool :=
  match m with
  | [] => true
  | (k, b) :: rest => decide (lo < k) && decide (b ≠ Memory.unlisted) && Memory.risesAbove k rest

/-- The canonical form of a memory: equal memories are equal lists. -/
def Memory.wf (m : Memory) : Bool :=
  match m with
  | [] => true
  | (k, b) :: rest => decide (b ≠ Memory.unlisted) && Memory.risesAbove k rest

/-- Every listed address is below `2 ^ w`: it exists in an address space of `w`-bit addresses (20_memory.md R46). -/
def Memory.below (w : Nat) (m : Memory) : Bool := m.all (fun c => decide (c.1 < 2 ^ w))

/-- Byte `j` of a value, least significant first: `v[8j+7 : 8j]` (20_memory.md R47). -/
def byteOf (v : Word) (j : Nat) : Byte := v.extractLsb' (8 * j) 8

/-- `MemWrite(a, n, v)` (00_scope.md R19, 20_memory.md R47): byte `a + j` becomes `v[8j+7 : 8j]` for j in [0, n). -/
def Memory.writeLE (m : Memory) (a n : Nat) (v : Word) : Memory :=
  match n with
  | 0 => m
  | k + 1 => (Memory.writeLE m a k v).write (a + k) (byteOf v k)

/-- The little-endian value of `n` bytes given by `f`: `sum over j in [0, n) of f j * 2^(8j)`. -/
def leValue (f : Nat → Byte) (n : Nat) : Nat :=
  match n with
  | 0 => 0
  | k + 1 => leValue f k + (f k).toNat * 2 ^ (8 * k)

/-- The little-endian value of the `n` bytes at `a`, for another agent's read (20_memory.md R57). -/
def Memory.readLE (m : Memory) (a n : Nat) : Word := BitVec.ofNat 64 (leValue (fun j => m.read (a + j)) n)

/-! The platform's map of destination memory. -/

/-- Whether the `len` bytes at `a` touch a region: whether some address is in both. DESIGN CHOICE, log entry 27: a listed
region of size 0 holds no address, so nothing touches it, and an entry of the map with no address changes nothing. -/
def Region.touches (r : Region) (a len : Nat) : Bool :=
  decide (0 < r.size ∧ r.base < a + len ∧ a < r.base + r.size)

/-- Whether the `len` bytes at `a` touch a region of kind `k`. -/
def regionsTouch (rs : List Region) (k : RegionKind) (a len : Nat) : Bool :=
  rs.any (fun r => decide (r.kind = k) && r.touches a len)

/-! Registers. -/

/-- STATUS.BUSY: 1 from acceptance to completion, that is while a command is in flight (10_state.md R33, R41). -/
def State.busy (s : State) : Bool := s.inflight.isSome

/-- Write the result register pair OUT (10_state.md R25). -/
def State.setOut (s : State) (lo hi : Word) : State := { s with outLo := lo, outHi := hi }

/-- Write the engine's state: STATE, CURSOR and BUF (10_state.md R26, R27, R28). -/
def State.setEngine (s : State) (st : Word) (cur : BitVec 10) (b : List Word) : State :=
  { s with engState := st, cursor := cur, buf := b }

/-- Completion without error: `LASTERR <- 0` and `BUSY <- 0`, the in-flight record discarded; ERRS and DROP keep their
values (60_exceptions.md R130, 10_state.md R34, R41). -/
def State.complete (s : State) : State := { s with lastErr := .none, inflight := none }

/-- Record a command error, the counterpart of taking an exception: `LASTERR <- code`, `ERRS <- 1`, and BUSY is 0
afterwards (60_exceptions.md R128 for a rejection, R133 for a bus error, R134). Nothing else changes and no control is
transferred (R126). -/
def State.raiseError (code : ErrCode) (s : State) : State :=
  { s with lastErr := code, errs := true, inflight := none }

/-- Clear the sticky flags whose written bit is 1: bit 1 clears ERRS, bit 2 clears DROP (10_state.md R37). It is the
only counterpart of a return from an exception (60_exceptions.md R135). -/
def State.clearSticky (s : State) (v : Word) : State :=
  { s with errs := s.errs && !v.getLsbD 1, drop := s.drop && !v.getLsbD 2 }

/-- A write dropped while BUSY = 1 sets DROP and does nothing else (10_state.md R35). -/
def State.dropWrite (s : State) : State := { s with drop := true }

/-- Leave FSTATE at a free value, as it is between FILLs (10_state.md R32, log entry 6), and count the draw. -/
def State.releaseFstate (s : State) : State :=
  { s with fstate := Config.freeWord s.draws, draws := s.draws + 1 }

/-- The answer of a read is appended to the replies; a read has no side effect on the block (20_memory.md R53). -/
def State.reply (s : State) (r : Reply) : State := { s with replies := r :: s.replies }

end Sys2Proof.Machine
end

