-- ==== Sys2Proof/Machine/Operands.lean ====
section
/-! DEFINITION. Where a command finds its operands (10_state.md R41, 30_encoding.md R65): the values latched at
acceptance; and which part of a register an MMIO access reaches (20_memory.md R49, R50). -/

namespace Sys2Proof.Machine

/-- The operand registers as they stand: what acceptance latches (10_state.md R41). -/
def State.liveOperands (s : State) : Operands := ⟨s.arg0, s.fdst, s.fcount, s.fseed⟩

/-- The operands a command computes from: the latched values while it is in flight (10_state.md R41), else the values
it would latch now. -/
def State.operands (s : State) : Operands :=
  match s.inflight with
  | some r => r.ops
  | none => s.liveOperands

/-- The elements of the FILL in flight that the fill writer has already performed. -/
def State.written (s : State) : List Nat :=
  match s.inflight with
  | some r => r.written
  | none => []

/-- The number of mixing steps that FSTATE has taken for the FILL in flight. -/
def State.mixed (s : State) : Nat :=
  match s.inflight with
  | some r => r.mixed
  | none => 0

/-- The part of a 64-bit register that an access reaches (20_memory.md R49). -/
inductive Lane where
  | whole
  | low
  | high
deriving DecidableEq, Repr

/-- A 64-bit access reaches the whole register; a 32-bit access at 8k reaches bits [31:0], at 8k + 4 bits [63:32]
(20_memory.md R49). -/
def laneOf (w : Width) (off : BitVec 8) : Lane :=
  match w with
  | .w64 => .whole
  | .w32 => if off.toNat % 8 = 4 then .high else .low
  | .w16 => .low
  | .w8 => .low

/-- A write of one half changes only that half (20_memory.md R50). -/
def mergeLane (old new : Word) (l : Lane) : Word :=
  match l with
  | .whole => new
  | .low => (old &&& 0xFFFFFFFF00000000#64) ||| (new &&& 0x00000000FFFFFFFF#64)
  | .high => (new <<< 32) ||| (old &&& 0x00000000FFFFFFFF#64)

/-- The value a read of one part answers, zero-extended. -/
def readLane (v : Word) (l : Lane) : Word :=
  match l with
  | .whole => v
  | .low => v &&& 0x00000000FFFFFFFF#64
  | .high => v >>> 32

/-- Zero-seed substitution (41_engine.md R81): `subst(s) = DEFAULT_SEED if s = 0, else s`. -/
def substSeed (c : Config) (seed : Word) : Word := if seed = 0#64 then c.defaultSeed else seed

end Sys2Proof.Machine
end

