-- ==== Sys2Proof/Machine/Mixer.lean ====
section
/-! DEFINITION. The mixer (40_mixer.md): the three mixing functions as pure functions (R71 to R75) over the arithmetic
of 00_scope.md R17, and the three MIXP commands (R78 to R80). -/

namespace Sys2Proof.Machine

/-- The exact 128-bit product of two unsigned 64-bit values (00_scope.md R17). -/
def mul128 (a b : Word) : Quad := a.setWidth 128 * b.setWidth 128

/-- Bits [127:64] (00_scope.md R17). -/
def hi64 (t : Quad) : Word := t.extractLsb' 64 64

/-- Bits [63:0] (00_scope.md R17). -/
def lo64 (t : Quad) : Word := t.extractLsb' 0 64

/-- The low 64 bits of the product (00_scope.md R17). -/
def mul64 (a b : Word) : Word := lo64 (mul128 a b)

/-- `{a, b}` of two 64-bit values, a in the high bits (00_scope.md R17). -/
def concat64 (a b : Word) : Quad := (a.setWidth 128 <<< 64) ||| b.setWidth 128

/-- `{a, b}` of two 32-bit values, a in the high bits (00_scope.md R17). -/
def concat32 (a b : Half) : Word := (a.setWidth 64 <<< 32) ||| b.setWidth 64

/-! The constants of 00_scope.md R21. -/

def mixC1 : Word := 0x60bee2bee120fc15#64
def mixC2 : Word := 0xa3b195354a39b70d#64
def mixC3 : Word := 0x1b03738712fad5c9#64
def mixC4 : Word := 0xe7037ed1a0b428db#64
def mixPrime1 : Word := 0x9e3779b185ebca87#64
def mixPrime3 : Word := 0x165667b19e3779f9#64

/-- Strategy A2, the 128-bit double-fold variant (40_mixer.md R72): next state and raw word. -/
def mixA2 (s : Word) : Word × Word :=
  let s1 := s + mixC1
  let t1 := mul128 s1 mixC2
  let m1 := hi64 t1 ^^^ lo64 t1
  let t2 := mul128 m1 mixC3
  (s1, hi64 t2 ^^^ lo64 t2)

/-- Strategy A1, the single-fold variant (40_mixer.md R73). -/
def mixA1 (s : Word) : Word × Word :=
  let s1 := s + mixC1
  let t := mul128 (s1 ^^^ mixC4) s1
  (s1, lo64 t ^^^ hi64 t)

/-- Strategy B, the xxh3-derived mix (40_mixer.md R74): state and output are the same value. -/
def mixB (s : Word) : Word × Word :=
  let x0 := s + mixPrime1
  let x1 := x0 ^^^ (x0 >>> 29)
  let x2 := mul64 x1 mixPrime3
  let x3 := x2 ^^^ (x2 >>> 32)
  (x3, x3)

/-- `Mix(k, s)` (40_mixer.md R75). -/
def mix (k : Strategy) (s : Word) : Word × Word :=
  match k with
  | .a2 => mixA2 s
  | .a1 => mixA1 s
  | .b => mixB s

/-- FSTATE_i of the stream from `seed` (43_fill.md R109): the state after `i` mixing steps. -/
def streamState (k : Strategy) (seed : Word) (i : Nat) : Word :=
  match i with
  | 0 => seed
  | j + 1 => (mix k (streamState k seed j)).1

/-- W_(i+1) of the stream from `seed` (43_fill.md R109): the raw word of the step after `i` steps. -/
def streamWord (k : Strategy) (seed : Word) (i : Nat) : Word := (mix k (streamState k seed i)).2

/-- `n` mixing steps in order: the words they produce and the state they leave. -/
def mixSteps (k : Strategy) (n : Nat) (st : Word) : List Word × Word :=
  match n with
  | 0 => ([], st)
  | m + 1 =>
    let p := mix k st
    let rest := mixSteps k m p.1
    (p.2 :: rest.1, rest.2)

/-- One mixing step on ARG0 without touching the engine: OUT_LO the word, OUT_HI the next state
(40_mixer.md R78 to R80). -/
def mixpCommand (f : Word → Word × Word) (s : State) : Host.Outcome State Fault Refusal :=
  let p := f s.operands.arg0
  .next (s.setOut p.2 p.1).complete

/-- MIXP.A2 (40_mixer.md R78). -/
def execMixpA2 (s : State) : Host.Outcome State Fault Refusal := mixpCommand mixA2 s

/-- MIXP.A1 (40_mixer.md R79). -/
def execMixpA1 (s : State) : Host.Outcome State Fault Refusal := mixpCommand mixA1 s

/-- MIXP.B (40_mixer.md R80). -/
def execMixpB (s : State) : Host.Outcome State Fault Refusal := mixpCommand mixB s

end Sys2Proof.Machine
end

