-- ==== Sys2Proof/Machine/Engine.lean ====
section
/-! DEFINITION. The engine (41_engine.md): seeding, the unbuffered and the buffered draw, and the commands SEED and
DRAW.B to DRAW.Q (R87 to R92). -/

namespace Sys2Proof.Machine

/-- The engine's state: STATE, CURSOR and BUF (10_state.md R26 to R28). -/
structure Engine where
  st : Word
  cursor : BitVec 10
  buf : List Word
deriving DecidableEq, Repr

/-- The engine's part of the state. -/
def State.engine (s : State) : Engine := ⟨s.engState, s.cursor, s.buf⟩

/-- Unbuffered mode if ENG_UNROLL ≤ 1, buffered mode if ENG_UNROLL > 1 (10_state.md R44). -/
def buffered (c : Config) : Bool := decide (c.engUnroll > 1)

/-- `w[8b-1 : 0]`, zero-extended to 128 bits: the truncating cast keeps the low-order bytes (41_engine.md R83). -/
def lowBytes (w : Word) (b : Nat) : Quad := BitVec.ofNat 128 (w.toNat % 2 ^ (8 * b))

/-- An unbuffered draw of `b` bytes (41_engine.md R83). -/
def drawUnbuffered (c : Config) (b : Nat) (e : Engine) : Quad × Engine :=
  let p0 := mix c.engStrat e.st
  if b ≤ 8 then (lowBytes p0.2 b, { e with st := p0.1 })
  else
    let p1 := mix c.engStrat p0.1
    (concat64 p1.2 p0.2, { e with st := p1.1 })

/-- Byte `i` of the buffer's byte image: `BUFBYTES[8k + j] = BUF[k][8j+7 : 8j]` (10_state.md R28). -/
def bufByte (buf : List Word) (i : Nat) : Byte := byteOf (buf.getD (i / 8) 0#64) (i % 8)

/-- Fill BUF by N engine steps and set CURSOR to 0 (41_engine.md R84). -/
def refill (c : Config) (e : Engine) : Engine :=
  let p := mixSteps c.engStrat c.engUnroll e.st
  ⟨p.2, 0#10, p.1⟩

/-- Serve `b` bytes at CURSOR, little-endian, and advance CURSOR (41_engine.md R84). -/
def serve (b : Nat) (e : Engine) : Quad × Engine :=
  (BitVec.ofNat 128 (leValue (fun j => bufByte e.buf (e.cursor.toNat + j)) b),
   { e with cursor := BitVec.ofNat 10 (e.cursor.toNat + b) })

/-- A buffered draw of `b` bytes (41_engine.md R84): refill first when the draw would cross the buffer's end. -/
def drawBuffered (c : Config) (b : Nat) (e : Engine) : Quad × Engine :=
  if e.cursor.toNat + b > 8 * c.engUnroll then serve b (refill c e) else serve b e

/-- `Draw(b)` (41_engine.md R85). -/
def draw (c : Config) (b : Nat) (e : Engine) : Quad × Engine :=
  if buffered c then drawBuffered c b e else drawUnbuffered c b e

/-- A DRAW of `b` bytes: the result to OUT, zero-extended to 128 bits (41_engine.md, section 2). -/
def drawCommand (b : Nat) (s : State) : Host.Outcome State Fault Refusal :=
  let p := draw s.cfg b s.engine
  .next ((s.setOut (lo64 p.1) (hi64 p.1)).setEngine p.2.st p.2.cursor p.2.buf).complete

/-- SEED (41_engine.md R87): STATE takes the substituted seed; in buffered mode CURSOR becomes 8N and BUF keeps its
stale words; OUT is unchanged. -/
def execSeed (s : State) : Host.Outcome State Fault Refusal :=
  .next (s.setEngine (substSeed s.cfg s.operands.arg0)
    (if buffered s.cfg then BitVec.ofNat 10 (8 * s.cfg.engUnroll) else s.cursor) s.buf).complete

/-- DRAW.B (41_engine.md R88): 1 byte. -/
def execDrawB (s : State) : Host.Outcome State Fault Refusal := drawCommand 1 s

/-- DRAW.H (41_engine.md R89): 2 bytes. -/
def execDrawH (s : State) : Host.Outcome State Fault Refusal := drawCommand 2 s

/-- DRAW.W (41_engine.md R90): 4 bytes. -/
def execDrawW (s : State) : Host.Outcome State Fault Refusal := drawCommand 4 s

/-- DRAW.D (41_engine.md R91): 8 bytes. -/
def execDrawD (s : State) : Host.Outcome State Fault Refusal := drawCommand 8 s

/-- DRAW.Q (41_engine.md R92): 16 bytes. -/
def execDrawQ (s : State) : Host.Outcome State Fault Refusal := drawCommand 16 s

end Sys2Proof.Machine
end

