-- ==== Sys2Proof/Decode.lean ====
section
/-! DEFINITION. Decoding a submitted command word (30_encoding.md R63 to R68), then the encoder, written from the same
map, and the host notation's mnemonics (R69, R70). -/

namespace Sys2Proof

/-- OP, bits [31:24] (30_encoding.md R64). -/
def opField (w : Half) : BitVec 8 := w.extractLsb' 24 8

/-- SUB, bits [23:20] (30_encoding.md R64). -/
def subField (w : Half) : BitVec 4 := w.extractLsb' 20 4

/-- RSV, bits [19:0], which must be 0 (30_encoding.md R64). -/
def rsvField (w : Half) : BitVec 20 := w.extractLsb' 0 20

/-- Why a word is illegal (30_encoding.md R68). Each reason is rejected with the same code, ILLEGAL. -/
inductive DecodeError where
  | reservedBits   -- RSV is not 0, R68 (2)
  | undefinedSub   -- OP is in the map, SUB is not, R68 (3) to (6)
  | undefinedOp    -- OP is not in the map, R68 (1) and (7)
deriving DecidableEq, Repr

/-- The opcode map (30_encoding.md R66) on the OP and SUB fields. -/
def decodeFields (op sub : Nat) : Except DecodeError Instr :=
  match op with
  | 0x01 =>
    match sub with
    | 0 => .ok .mixpA2
    | 1 => .ok .mixpA1
    | 2 => .ok .mixpB
    | _ => .error .undefinedSub
  | 0x10 =>
    match sub with
    | 0 => .ok .seed
    | _ => .error .undefinedSub
  | 0x11 =>
    match sub with
    | 0 => .ok .drawB
    | 1 => .ok .drawH
    | 2 => .ok .drawW
    | 3 => .ok .drawD
    | 4 => .ok .drawQ
    | _ => .error .undefinedSub
  | 0x20 =>
    match sub with
    | 0 => .ok .cvtD
    | 1 => .ok .cvtS
    | 2 => .ok .cvtS2
    | 3 => .ok .cvtSfix
    | _ => .error .undefinedSub
  | 0x30 =>
    match sub with
    | 0 => .ok .fillDA2
    | 1 => .ok .fillDA1
    | 2 => .ok .fillDB
    | _ => .error .undefinedSub
  | 0x31 =>
    match sub with
    | 0 => .ok .fillSA2
    | 1 => .ok .fillSA1
    | 2 => .ok .fillSB
    | _ => .error .undefinedSub
  | _ => .error .undefinedOp

/-- Decode a submitted word: total, exact match, an illegal word rejected by name (30_encoding.md R66, R68). -/
def decode (w : Half) : Except DecodeError Instr :=
  if rsvField w = 0#20 then decodeFields (opField w).toNat (subField w).toNat
  else .error .reservedBits

/-- The fields of format C placed in a word, OP at bit 24, SUB at bit 20, RSV = 0 (30_encoding.md R64). -/
def formatC (op : BitVec 8) (sub : BitVec 4) : Half := (op.setWidth 32 <<< 24) ||| (sub.setWidth 32 <<< 20)

/-- The word of a command (30_encoding.md R66). -/
def encode (i : Instr) : Half :=
  match i with
  | .mixpA2 => formatC 0x01#8 0#4
  | .mixpA1 => formatC 0x01#8 1#4
  | .mixpB => formatC 0x01#8 2#4
  | .seed => formatC 0x10#8 0#4
  | .drawB => formatC 0x11#8 0#4
  | .drawH => formatC 0x11#8 1#4
  | .drawW => formatC 0x11#8 2#4
  | .drawD => formatC 0x11#8 3#4
  | .drawQ => formatC 0x11#8 4#4
  | .cvtD => formatC 0x20#8 0#4
  | .cvtS => formatC 0x20#8 1#4
  | .cvtS2 => formatC 0x20#8 2#4
  | .cvtSfix => formatC 0x20#8 3#4
  | .fillDA2 => formatC 0x30#8 0#4
  | .fillDA1 => formatC 0x30#8 1#4
  | .fillDB => formatC 0x30#8 2#4
  | .fillSA2 => formatC 0x31#8 0#4
  | .fillSA1 => formatC 0x31#8 1#4
  | .fillSB => formatC 0x31#8 2#4

/-- The instruction the decoder reads from an instruction of `nbits` bits whose bits are `w`. A command is one 32-bit
word (30_encoding.md R63); the bits above `nbits` are 0, and nothing longer is a command. -/
def decodeTableWord (nbits w : Nat) : Option Instr :=
  if nbits ≤ 32 then
    match decode (BitVec.ofNat 32 (w % 2 ^ nbits)) with
    | .ok i => some i
    | .error _ => none
  else none

/-- The mnemonic of a command, as 30_encoding.md R66 spells it. -/
def Instr.mnemonic (i : Instr) : String :=
  match i with
  | .mixpA2 => "MIXP.A2"
  | .mixpA1 => "MIXP.A1"
  | .mixpB => "MIXP.B"
  | .seed => "SEED"
  | .drawB => "DRAW.B"
  | .drawH => "DRAW.H"
  | .drawW => "DRAW.W"
  | .drawD => "DRAW.D"
  | .drawQ => "DRAW.Q"
  | .cvtD => "CVT.D"
  | .cvtS => "CVT.S"
  | .cvtS2 => "CVT.S2"
  | .cvtSfix => "CVT.SFIX"
  | .fillDA2 => "FILL.D.A2"
  | .fillDA1 => "FILL.D.A1"
  | .fillDB => "FILL.D.B"
  | .fillSA2 => "FILL.S.A2"
  | .fillSA1 => "FILL.S.A1"
  | .fillSB => "FILL.S.B"

/-- Every command, in the order of 30_encoding.md R66. -/
def Instr.all : List Instr :=
  [.mixpA2, .mixpA1, .mixpB, .seed, .drawB, .drawH, .drawW, .drawD, .drawQ, .cvtD, .cvtS, .cvtS2, .cvtSfix,
   .fillDA2, .fillDA1, .fillDB, .fillSA2, .fillSA1, .fillSB]

/-- The mnemonics without a suffix that host programs may use (30_encoding.md R70). -/
def mnemonicAliases : List (String × Instr) :=
  [("FILL.D", .fillDA2), ("FILL.S", .fillSA2), ("MIXP", .mixpA2), ("DRAW", .drawD)]

/-- The command a host program's mnemonic names, by the map of R66 and the aliases of R70. -/
def commandOfMnemonic (m : String) : Option Instr :=
  match Instr.all.find? (fun i => i.mnemonic == m) with
  | some i => some i
  | none => (mnemonicAliases.find? (fun p => p.1 == m)).map (·.2)

end Sys2Proof
end

