-- ==== Sys2Proof/Machine/Convert.lean ====
section
/-! DEFINITION. The float conversion pipeline (42_convert.md): IEEE 754 binary formats and round to nearest, ties to
even (00_scope.md R18), the scale constants (R93), the conversion functions (R97 to R99) and the commands CVT.D,
CVT.S, CVT.S2 and CVT.SFIX (R103 to R106). Every value here is non-negative and finite (R101). -/

namespace Sys2Proof.Machine

/-- An IEEE 754 binary format: significand width in bits and exponent-field width in bits. -/
structure FloatFormat where
  prec : Nat
  expBits : Nat
deriving DecidableEq, Repr

/-- binary64 (00_scope.md R18). -/
def binary64 : FloatFormat := ⟨53, 11⟩

/-- binary32 (00_scope.md R18). -/
def binary32 : FloatFormat := ⟨24, 8⟩

/-- The exponent of the unit in the last place of the format's smallest numbers: -1074 for binary64, -149 for
binary32. -/
def minExp (f : FloatFormat) : Int := 3 - 2 ^ (f.expBits - 1) - f.prec

/-- The encoding of +infinity; the encodings below it are the non-negative finite floats, in order of value. -/
def infEncoding (f : FloatFormat) : Nat := (2 ^ f.expBits - 1) * 2 ^ (f.prec - 1)

/-- The significand and exponent of a non-negative finite encoding: `real = sig * 2 ^ exp`. -/
def unpack (f : FloatFormat) (enc : Nat) : Nat × Int :=
  let e := enc / 2 ^ (f.prec - 1)
  let frac := enc % 2 ^ (f.prec - 1)
  if e = 0 then (frac, minExp f) else (frac + 2 ^ (f.prec - 1), minExp f + (e - 1 : Nat))

/-- `m / 2 ^ k` rounded to the nearest integer, ties to even. -/
def roundShift (m k : Nat) : Nat :=
  let q := m / 2 ^ k
  let r := m % 2 ^ k
  if 2 * r < 2 ^ k then q
  else if 2 * r = 2 ^ k then q + q % 2
  else q + 1

/-- `RN(m * 2 ^ e)` as an encoding (00_scope.md R18): the exponent of the last place is chosen so that the significand
has `prec` bits (or is the format's smallest), the value is rounded to a multiple of it, and the significand is added
to the exponent field so that a carry out of the significand raises the exponent. A value too large for the format
gives infinity (it never arises here, 42_convert.md R101). -/
def roundNearest (f : FloatFormat) (m : Nat) (e : Int) : Nat :=
  if m = 0 then 0
  else
    let ulp := max (e + (Nat.log2 m + 1 : Nat) - f.prec) (minExp f)
    let n := if ulp ≤ e then m * 2 ^ (e - ulp).toNat else roundShift m (ulp - e).toNat
    min ((ulp - minExp f).toNat * 2 ^ (f.prec - 1) + n) (infEncoding f)

/-- The float equal to an integer (00_scope.md R18), used where it is exactly representable (42_convert.md R95). -/
def ofInteger (f : FloatFormat) (x : Nat) : Nat := roundNearest f x 0

/-- `fmul(a, b) = RN(real(a) * real(b))` on encodings of finite floats (00_scope.md R18). -/
def fmul (f : FloatFormat) (a b : Nat) : Nat :=
  let x := unpack f a
  let y := unpack f b
  roundNearest f (x.1 * y.1) (x.2 + y.2)

/-- S64 (42_convert.md R93), as a binary64 encoding. -/
def scale64 (m : ScaleMode) : Nat :=
  match m with
  | .doc => 0x3CA0000000000001
  | .pow2 => 0x3CA0000000000000

/-- S32 (42_convert.md R93), as a binary32 encoding. -/
def scale32 (m : ScaleMode) : Nat :=
  match m with
  | .doc => 0x35000004
  | .pow2 => 0x35000000

/-- `lo32(w) = w[31:0]`, the first half (42_convert.md R98). -/
def lo32 (w : Word) : Half := w.extractLsb' 0 32

/-- `hi32(w) = w[63:32]`, the second half (42_convert.md R98). -/
def hi32 (w : Word) : Half := w.extractLsb' 32 32

/-- `cvt64(w) = bits64(fmul64(f64(w >> 11), S64))` (42_convert.md R97); the shift is logical (R94). -/
def cvt64 (m : ScaleMode) (w : Word) : Word :=
  BitVec.ofNat 64 (fmul binary64 (ofInteger binary64 (w >>> 11).toNat) (scale64 m))

/-- `cvt32(h) = bits32(fmul32(f32(h >> 11), S32))` (42_convert.md R98). -/
def cvt32 (m : ScaleMode) (h : Half) : Half :=
  BitVec.ofNat 32 (fmul binary32 (ofInteger binary32 (h >>> 11).toNat) (scale32 m))

/-- `cvtfix(w) = bits32(fmul32(f32(w >> 43), S32))` (42_convert.md R99). -/
def cvtfix (m : ScaleMode) (w : Word) : Half :=
  BitVec.ofNat 32 (fmul binary32 (ofInteger binary32 (w >>> 43).toNat) (scale32 m))

/-- A CVT command: OUT_LO the result, OUT_HI 0; it reads only ARG0 and writes only OUT (42_convert.md, section 4). -/
def cvtCommand (f : ScaleMode → Word → Word) (s : State) : Host.Outcome State Fault Refusal :=
  .next (s.setOut (f s.cfg.scaleMode s.operands.arg0) 0#64).complete

/-- CVT.D (42_convert.md R103). -/
def execCvtD (s : State) : Host.Outcome State Fault Refusal := cvtCommand cvt64 s

/-- CVT.S (42_convert.md R104): only ARG0[31:0] matters. -/
def execCvtS (s : State) : Host.Outcome State Fault Refusal :=
  cvtCommand (fun m w => (cvt32 m (lo32 w)).setWidth 64) s

/-- CVT.S2 (42_convert.md R105): element 0, the low half's value, in bits [31:0]. -/
def execCvtS2 (s : State) : Host.Outcome State Fault Refusal :=
  cvtCommand (fun m w => concat32 (cvt32 m (hi32 w)) (cvt32 m (lo32 w))) s

/-- CVT.SFIX (42_convert.md R106). -/
def execCvtSfix (s : State) : Host.Outcome State Fault Refusal :=
  cvtCommand (fun m w => (cvtfix m w).setWidth 64) s

end Sys2Proof.Machine
end

