-- ==== Sys2Proof/Machine/Fill.lean ====
section
/-! DEFINITION. The bulk fill (43_fill.md, section 1): validation, the element values, the memory effect, the bus error
of 60_exceptions.md R133, and the commands FILL.D.A2 to FILL.S.B (R120 to R125). -/

namespace Sys2Proof.Machine

/-- The element size b in bytes: 8 for FILL.D, 4 for FILL.S (43_fill.md R107). -/
def elemBytes (b : ElemSize) : Nat :=
  match b with
  | .d => 8
  | .s => 4

/-- Everything the element values and addresses of an accepted FILL depend on (43_fill.md R107, R117). -/
structure FillJob where
  size : ElemSize
  strat : Strategy
  /-- The byte address a of element 0. -/
  dst : Nat
  /-- The element count n. -/
  count : Nat
  /-- FSTATE_0 = subst(FSEED). -/
  seed : Word
  scale : ScaleMode
deriving DecidableEq, Repr

/-- The job of a FILL with the latched operands `o` (43_fill.md R107). -/
def fillJob (c : Config) (b : ElemSize) (k : Strategy) (o : Operands) : FillJob :=
  ⟨b, k, o.fdst.toNat, o.fcount.toNat, substSeed c o.fseed, c.scaleMode⟩

/-- The outcome of validation (43_fill.md R108). -/
inductive FillCheck where
  | noop               -- n = 0: accept, nothing to do
  | reject (e : ErrCode)
  | proceed            -- accept, perform R112
deriving DecidableEq, Repr

/-- Validation (43_fill.md R108), in the order n = 0, ALIGN, RANGE; exact integer arithmetic. -/
def fillCheck (c : Config) (b : ElemSize) (o : Operands) : FillCheck :=
  if o.fcount = 0#64 then .noop
  else if o.fdst.toNat % elemBytes b ≠ 0 then .reject .align
  else if o.fdst.toNat + o.fcount.toNat * elemBytes b > 2 ^ c.addrW then .reject .range
  else .proceed

/-- The alignment fix-up applies: a FILL.S with `a mod 8 = 4` (43_fill.md R111). -/
def hasFixup (j : FillJob) : Bool :=
  match j.size with
  | .d => false
  | .s => j.dst % 8 == 4

/-- Element `i` of an aligned FILL.S: `E(2j) = cvt32(lo32(W_(j+1)))`, `E(2j+1) = cvt32(hi32(W_(j+1)))`
(43_fill.md R110). -/
def alignedElem32 (j : FillJob) (i : Nat) : Half :=
  let w := streamWord j.strat j.seed (i / 2)
  if i % 2 = 0 then cvt32 j.scale (lo32 w) else cvt32 j.scale (hi32 w)

/-- Element `i` of a FILL.S with the fix-up: `E(0) = cvtfix(W_1)`, `E(1+2j) = cvt32(lo32(W_(j+2)))`,
`E(2+2j) = cvt32(hi32(W_(j+2)))` (43_fill.md R110). -/
def fixupElem32 (j : FillJob) (i : Nat) : Half :=
  match i with
  | 0 => cvtfix j.scale (streamWord j.strat j.seed 0)
  | m + 1 =>
    let w := streamWord j.strat j.seed (m / 2 + 1)
    if m % 2 = 0 then cvt32 j.scale (lo32 w) else cvt32 j.scale (hi32 w)

/-- E(i), zero-extended to 64 bits (43_fill.md R110). -/
def fillElem (j : FillJob) (i : Nat) : Word :=
  match j.size with
  | .d => cvt64 j.scale (streamWord j.strat j.seed i)
  | .s => (if hasFixup j then fixupElem32 j i else alignedElem32 j i).setWidth 64

/-- The index, from 0, of the raw word that element `i` is made from (43_fill.md R110). -/
def wordIndex (j : FillJob) (i : Nat) : Nat :=
  match j.size with
  | .d => i
  | .s =>
    if hasFixup j then
      match i with
      | 0 => 0
      | m + 1 => m / 2 + 1
    else i / 2

/-- The address of element `i`: `a + i*b` (43_fill.md R112). -/
def elemAddr (j : FillJob) (i : Nat) : Nat := j.dst + i * elemBytes j.size

/-- `MemWrite(a + i*b, b, E(i))` (43_fill.md R112), one write of the element's width (20_memory.md R52). -/
def writeElem (j : FillJob) (m : Memory) (i : Nat) : Memory :=
  m.writeLE (elemAddr j i) (elemBytes j.size) (fillElem j i)

/-- The writes of those of the elements 0 to `n - 1` that `p` selects (43_fill.md R112). -/
def writeElems (j : FillJob) (p : Nat → Bool) (n : Nat) (m : Memory) : Memory :=
  match n with
  | 0 => m
  | i + 1 =>
    let m' := writeElems j p i m
    if p i then writeElem j m' i else m'

/-- The platform refuses the write of element `i` (60_exceptions.md R133). -/
def elemRefused (rs : List Region) (j : FillJob) (i : Nat) : Bool :=
  regionsTouch rs .refuses (elemAddr j i) (elemBytes j.size)

/-- The destination touches a device region (20_memory.md R53). DESIGN CHOICE, log entry 12: the whole destination counts,
by the map as it stands at the turn, whichever elements are left to write. -/
def onDevice (rs : List Region) (j : FillJob) : Bool :=
  regionsTouch rs .device j.dst (j.count * elemBytes j.size)

/-- Element `i` has not been performed yet. -/
def pending (s : State) (i : Nat) : Bool := !s.written.contains i

/-- Some element still to be performed will be refused. -/
def willBeRefused (j : FillJob) (s : State) : Bool :=
  (List.range j.count).any (fun i => pending s i && elemRefused s.regions j i)

/-- The set of further elements that are performed when a FILL ends early: a free choice among all that the fill writer
has not performed yet (60_exceptions.md R133 "A model draws that set freely"; 70_reset_and_hazards.md R147). -/
def freelyPerformed (s : State) (i : Nat) : Bool := pending s i && Config.freeBit s.draws i

/-- FSTATE takes mixing steps of the FILL `j` in flight until it has taken `n` of them, if it has taken fewer
(10_state.md R32, 43_fill.md R109). -/
def mixTo (j : FillJob) (n : Nat) (s : State) : State :=
  match s.inflight with
  | none => s
  | some r =>
    { s with
      fstate := streamState j.strat s.fstate (n - r.mixed)
      inflight := some { r with mixed := max r.mixed n } }

/-- A FILL completes without error: FSTATE is left unspecified (10_state.md R32), `LASTERR <- 0`, `BUSY <- 0`. -/
def finishFill (s : State) : State := s.releaseFstate.complete

/-- A FILL ends with a bus error (60_exceptions.md R133): each element old or new, whole; `LASTERR <- BUS`,
`ERRS <- 1`, `BUSY <- 0`. -/
def endWithBus (j : FillJob) (s : State) : State :=
  State.raiseError .bus
    (State.releaseFstate { s with mem := writeElems j (freelyPerformed s) j.count s.mem })

/-- Perform an accepted FILL with n > 0 to its end: every element not yet performed is written (43_fill.md R112).
DESIGN CHOICE, log entry 12: the map that counts is the one that stands now; a map that has made the destination a
device region during the FILL refuses the completion, even with no element left to write. -/
def performFill (j : FillJob) (s : State) : Host.Outcome State Fault Refusal :=
  if onDevice s.regions j then .refused .deviceTarget
  else if willBeRefused j s then .next (endWithBus j s)
  else .next (finishFill { s with mem := writeElems j (pending s) j.count s.mem })

/-- A FILL command (43_fill.md R108, R112, R120 to R125). -/
def fillCommand (b : ElemSize) (k : Strategy) (s : State) : Host.Outcome State Fault Refusal :=
  match fillCheck s.cfg b s.operands with
  | .noop => .next (finishFill s)
  | .reject e => .next (s.raiseError e)
  | .proceed => performFill (fillJob s.cfg b k s.operands) s

/-- FILL.D.A2 (43_fill.md R120). -/
def execFillDA2 (s : State) : Host.Outcome State Fault Refusal := fillCommand .d .a2 s

/-- FILL.D.A1 (43_fill.md R121). -/
def execFillDA1 (s : State) : Host.Outcome State Fault Refusal := fillCommand .d .a1 s

/-- FILL.D.B (43_fill.md R122). -/
def execFillDB (s : State) : Host.Outcome State Fault Refusal := fillCommand .d .b s

/-- FILL.S.A2 (43_fill.md R123). -/
def execFillSA2 (s : State) : Host.Outcome State Fault Refusal := fillCommand .s .a2 s

/-- FILL.S.A1 (43_fill.md R124). -/
def execFillSA1 (s : State) : Host.Outcome State Fault Refusal := fillCommand .s .a1 s

/-- FILL.S.B (43_fill.md R125). -/
def execFillSB (s : State) : Host.Outcome State Fault Refusal := fillCommand .s .b s

/-- The element width and strategy of a FILL command, none for the other commands (30_encoding.md R67). -/
def fillForm (i : Instr) : Option (ElemSize × Strategy) :=
  match i with
  | .fillDA2 => some (.d, .a2)
  | .fillDA1 => some (.d, .a1)
  | .fillDB => some (.d, .b)
  | .fillSA2 => some (.s, .a2)
  | .fillSA1 => some (.s, .a1)
  | .fillSB => some (.s, .b)
  | .mixpA2 | .mixpA1 | .mixpB | .seed | .drawB | .drawH | .drawW | .drawD | .drawQ
  | .cvtD | .cvtS | .cvtS2 | .cvtSfix => none

/-- The code a command is rejected with at submission (60_exceptions.md R127: only a FILL has validation). -/
def rejection (c : Config) (i : Instr) (o : Operands) : Option ErrCode :=
  match fillForm i with
  | none => none
  | some (b, _) =>
    match fillCheck c b o with
    | .noop => none
    | .reject e => some e
    | .proceed => none

/-- The job of the FILL in flight, if there is one with elements to write. -/
def inflightFill (s : State) : Option FillJob :=
  match s.inflight with
  | none => none
  | some r =>
    match decode r.word with
    | .error _ => none
    | .ok i =>
      match fillForm i with
      | none => none
      | some (b, k) =>
        match fillCheck s.cfg b r.ops with
        | .proceed => some (fillJob s.cfg b k r.ops)
        | .noop => none
        | .reject _ => none

end Sys2Proof.Machine
end

