-- ==== Sys2Proof/Machine/Dispatch.lean ====
section
/-! DEFINITION. The dispatch: one arm per command. `exec i s` performs command `i` to its completion: from the latched
operands when a command is in flight (10_state.md R41), else from the operand registers as acceptance would latch them
(log entry 3). -/

namespace Sys2Proof.Machine

def exec (i : Instr) (s : State) : Host.Outcome State Fault Refusal :=
  match i with
  | .mixpA2 => Sys2Proof.Machine.execMixpA2 s
  | .mixpA1 => Sys2Proof.Machine.execMixpA1 s
  | .mixpB => Sys2Proof.Machine.execMixpB s
  | .seed => Sys2Proof.Machine.execSeed s
  | .drawB => Sys2Proof.Machine.execDrawB s
  | .drawH => Sys2Proof.Machine.execDrawH s
  | .drawW => Sys2Proof.Machine.execDrawW s
  | .drawD => Sys2Proof.Machine.execDrawD s
  | .drawQ => Sys2Proof.Machine.execDrawQ s
  | .cvtD => Sys2Proof.Machine.execCvtD s
  | .cvtS => Sys2Proof.Machine.execCvtS s
  | .cvtS2 => Sys2Proof.Machine.execCvtS2 s
  | .cvtSfix => Sys2Proof.Machine.execCvtSfix s
  | .fillDA2 => Sys2Proof.Machine.execFillDA2 s
  | .fillDA1 => Sys2Proof.Machine.execFillDA1 s
  | .fillDB => Sys2Proof.Machine.execFillDB s
  | .fillSA2 => Sys2Proof.Machine.execFillSA2 s
  | .fillSA1 => Sys2Proof.Machine.execFillSA1 s
  | .fillSB => Sys2Proof.Machine.execFillSB s

end Sys2Proof.Machine
end

