-- ==== Sys2Proof/Machine/Flags.lean ====
section
/-! DEFINITION. STATUS and CFG as the host reads them (10_state.md R33 to R38): MIXR's only flags are those of STATUS
(R43). -/

namespace Sys2Proof.Machine

/-- The 4-bit code of LASTERR (60_exceptions.md R131). -/
def ErrCode.code (e : ErrCode) : BitVec 4 :=
  match e with
  | .none => 0#4
  | .illegal => 1#4
  | .align => 2#4
  | .range => 3#4
  | .bus => 4#4

/-- A field of a register, of `width` bits with its least significant bit at bit `lo` (00_scope.md R15). -/
def fieldAt (width lo v : Nat) : Nat := v % 2 ^ width * 2 ^ lo

/-- STATUS: BUSY bit 0, ERRS bit 1, DROP bit 2, LASTERR bits [7:4]; bit 3 and bits [63:8] read 0
(10_state.md R33 to R36). -/
def State.statusWord (s : State) : Word :=
  BitVec.ofNat 64
    (fieldAt 1 0 s.busy.toNat + fieldAt 1 1 s.errs.toNat + fieldAt 1 2 s.drop.toNat + fieldAt 4 4 s.lastErr.code.toNat)

/-- The 2-bit strategy code (00_scope.md R5). -/
def strategyCode (k : Strategy) : Nat :=
  match k with
  | .a2 => 0
  | .a1 => 1
  | .b => 2

/-- The SCALE_MODE bit (00_scope.md R10). -/
def scaleModeBit (m : ScaleMode) : Nat :=
  match m with
  | .doc => 0
  | .pow2 => 1

/-- REV, the spec revision (00_scope.md R1). -/
def revision : Nat := 1

/-- CFG (10_state.md R38): ENG_UNROLL [7:0], ENG_STRAT [9:8], VEC_EN [10], SCALE_MODE [11], FILL_UNROLL [23:16],
VEC_LANES64 [31:24], ADDR_W [38:32], REV [47:40]; the reserved bits [15:12], [39] and [63:48] are 0. -/
def cfgWord (c : Config) : Word :=
  BitVec.ofNat 64
    (fieldAt 8 0 c.engUnroll + fieldAt 2 8 (strategyCode c.engStrat) + fieldAt 1 10 c.vecEn.toNat
      + fieldAt 1 11 (scaleModeBit c.scaleMode) + fieldAt 8 16 c.fillUnroll + fieldAt 8 24 c.vecLanes64
      + fieldAt 7 32 c.addrW + fieldAt 8 40 revision)

/-- CURSOR as the host reads it: bits [9:0] in buffered mode with the rest 0, and 0 in unbuffered mode
(10_state.md R27). -/
def State.cursorWord (s : State) : Word := if s.cfg.engUnroll > 1 then s.cursor.setWidth 64 else 0#64

end Sys2Proof.Machine
end

