-- ==== Sys2Proof/Machine/Mmio.lean ====
section
/-! DEFINITION. The register window (10_state.md R22 to R40, 20_memory.md R49, R50) and the submission of commands
(60_exceptions.md R127 to R129, R132). -/

namespace Sys2Proof.Machine

/-- The registers of the window (10_state.md R22). -/
inductive Reg where
  | cfg
  | status
  | cmd
  | arg0
  | outLo
  | outHi
  | state
  | cursor
  | fdst
  | fcount
  | fseed
  | dseed
deriving DecidableEq, Repr

/-- The offset of a register from BASE (10_state.md R22). -/
def regOffset (r : Reg) : BitVec 8 :=
  match r with
  | .cfg => 0x00#8
  | .status => 0x08#8
  | .cmd => 0x10#8
  | .arg0 => 0x18#8
  | .outLo => 0x20#8
  | .outHi => 0x28#8
  | .state => 0x30#8
  | .cursor => 0x38#8
  | .fdst => 0x40#8
  | .fcount => 0x48#8
  | .fseed => 0x50#8
  | .dseed => 0x58#8

/-- The register that holds the byte at an offset; none at the reserved offsets 0x60 to 0xFF (10_state.md R22, R40). -/
def regAt (off : BitVec 8) : Option Reg :=
  match off.toNat / 8 with
  | 0 => some .cfg
  | 1 => some .status
  | 2 => some .cmd
  | 3 => some .arg0
  | 4 => some .outLo
  | 5 => some .outHi
  | 6 => some .state
  | 7 => some .cursor
  | 8 => some .fdst
  | 9 => some .fcount
  | 10 => some .fseed
  | 11 => some .dseed
  | _ => none

/-- The 64 bits a register reads as (10_state.md R22 to R39). CMD reads 0 (R24). -/
def readReg (s : State) (r : Reg) : Word :=
  match r with
  | .cfg => cfgWord s.cfg
  | .status => s.statusWord
  | .cmd => 0#64
  | .arg0 => s.arg0
  | .outLo => s.outLo
  | .outHi => s.outHi
  | .state => s.engState
  | .cursor => s.cursorWord
  | .fdst => s.fdst
  | .fcount => s.fcount
  | .fseed => s.fseed
  | .dseed => s.cfg.defaultSeed

/-- The value a supported read of the window answers; reserved offsets read 0 (10_state.md R40). -/
def readWindow (s : State) (w : Width) (off : BitVec 8) : Word :=
  match regAt off with
  | none => 0#64
  | some r => readLane (readReg s r) (laneOf w off)

/-- Acceptance (60_exceptions.md R129): the operands are latched (10_state.md R41), which makes BUSY 1 (R33). A FILL
sets FSTATE to `subst(FSEED)` (43_fill.md R107). -/
def accept (word : Half) (i : Instr) (s : State) : State :=
  match fillForm i with
  | none => { s with inflight := some ⟨word, s.liveOperands, [], 0⟩ }
  | some _ => { s with inflight := some ⟨word, s.liveOperands, [], 0⟩, fstate := substSeed s.cfg s.fseed }

/-- Submission of a command word while BUSY = 0 (60_exceptions.md R127): rejected if it fails decode (ILLEGAL) or
validation (ALIGN, RANGE), in this order (R132), accepted otherwise. -/
def submit (word : Half) (s : State) : State :=
  match decode word with
  | .error _ => s.raiseError .illegal
  | .ok i =>
    match rejection s.cfg i s.liveOperands with
    | some e => s.raiseError e
    | none => accept word i s

/-- A write to an operand register: dropped while BUSY = 1 (10_state.md R35), else it changes the part it reaches
(20_memory.md R50). -/
def writeOperand (s : State) (written : State) : State := if s.busy then s.dropWrite else written

/-- A supported write of `v` to the part `l` of a register (10_state.md R22 to R40). CMD takes bits [31:0] and its
upper half ignores writes (R24); STATUS clears sticky bits (R37), all of them in its low half; read-only registers
ignore writes (R40). -/
def writeReg (s : State) (r : Reg) (l : Lane) (v : Word) : State :=
  match r with
  | .cfg => s
  | .status =>
    match l with
    | .whole => s.clearSticky v
    | .low => s.clearSticky v
    | .high => s
  | .cmd =>
    match l with
    | .whole => if s.busy then s.dropWrite else submit (v.extractLsb' 0 32) s
    | .low => if s.busy then s.dropWrite else submit (v.extractLsb' 0 32) s
    | .high => s
  | .arg0 => writeOperand s { s with arg0 := mergeLane s.arg0 v l }
  | .outLo => s
  | .outHi => s
  | .state => s
  | .cursor => s
  | .fdst => writeOperand s { s with fdst := mergeLane s.fdst v l }
  | .fcount => writeOperand s { s with fcount := mergeLane s.fcount v l }
  | .fseed => writeOperand s { s with fseed := mergeLane s.fseed v l }
  | .dseed => s

/-- A supported write of the window; reserved offsets ignore writes (10_state.md R40). -/
def writeWindow (s : State) (w : Width) (off : BitVec 8) (v : Word) : State :=
  match regAt off with
  | none => s
  | some r => writeReg s r (laneOf w off) v

/-- A host read (20_memory.md R49, R50, R53): it answers and has no other effect. -/
def hostRead (w : Width) (off : BitVec 8) (s : State) : Host.Outcome State Fault Refusal :=
  if mmioSupported w off then .next (s.reply (.reg w off (readWindow s w off)))
  else .refused .unsupportedAccess

/-- A host write (20_memory.md R49, R50). -/
def hostWrite (w : Width) (off : BitVec 8) (v : Word) (s : State) : Host.Outcome State Fault Refusal :=
  if mmioSupported w off then .next (writeWindow s w off v)
  else .refused .unsupportedAccess

end Sys2Proof.Machine
end

