-- ==== Sys2Proof/Machine/Agents.lean ====
section
/-! DEFINITION. What each agent does when it moves (00_scope.md R3): the command unit, the fill writer, the platform
and the other agents that reach destination memory. -/

namespace Sys2Proof.Machine

/-- The command unit's turn (60_exceptions.md R130): the command in flight is performed to its completion; with none
in flight the block waits (70_reset_and_hazards.md R148). A record whose word is illegal is never accepted (R127); it
would be rejected here as at submission (log entry 20). -/
def unitTurn (s : State) : Host.Outcome State Fault Refusal :=
  match s.inflight with
  | none => .next s
  | some r =>
    match decode r.word with
    | .ok i => exec i s
    | .error _ => .next (s.raiseError .illegal)

/-- The in-flight record with element `i` marked as performed. -/
def markWritten (s : State) (i : Nat) : State :=
  match s.inflight with
  | none => s
  | some r => { s with inflight := some { r with written := i :: r.written } }

/-- The fill writer's turn for element `i` of the FILL in flight (43_fill.md R112, 20_memory.md R56 (3)): it performs
that one write, FSTATE having been advanced past the element's word (10_state.md R32), or, if the platform refuses the
write, the FILL ends with a bus error (60_exceptions.md R133). Where there is no such element left to write, nothing
happens. The map that counts is the one that stands at the turn (DESIGN CHOICE, log entries 12 and 26). -/
def writerTurn (i : Nat) (s : State) : Host.Outcome State Fault Refusal :=
  match inflightFill s with
  | none => .next s
  | some j =>
    if decide (i < j.count) && pending s i then
      if onDevice s.regions j then .refused .deviceTarget
      else if elemRefused s.regions j i then .next (endWithBus j s)
      else .next (markWritten (mixTo j (wordIndex j i + 1) { s with mem := writeElem j s.mem i }) i)
    else .next s

/-- One mixing step of the FILL in flight (43_fill.md R109), ahead of the writes or beyond those that they need: how many
steps a FILL takes is not specified (R118). A FILL with n = 0 takes none. -/
def mixTurn (s : State) : Host.Outcome State Fault Refusal :=
  match inflightFill s with
  | none => .next s
  | some j => .next (mixTo j (s.mixed + 1) s)

/-- Every register and the engine at its reset value, with the parameters kept (70_reset_and_hazards.md R146); FSTATE,
which R146 leaves unspecified, is a free value (log entry 6); the platform's memory and map, the script and the replies
are not the block's and stay. -/
def resetBlock (s : State) : State :=
  { State.resetOf s.cfg with
    fstate := Config.freeWord s.draws, mem := s.mem, regions := s.regions, events := s.events, replies := s.replies
    draws := s.draws + 1 }

/-- The platform asserts reset (70_reset_and_hazards.md R146, R147): a FILL in flight is abandoned with each element
old or new, whole, the model drawing which. A destination that the map now gives as a device region is refused (DESIGN
CHOICE, log entry 12). -/
def resetTurn (s : State) : Host.Outcome State Fault Refusal :=
  match inflightFill s with
  | none => .next (resetBlock s)
  | some j =>
    if onDevice s.regions j then .refused .deviceTarget
    else .next (resetBlock { s with mem := writeElems j (freelyPerformed s) j.count s.mem })

/-- Whether another agent's access to `len` bytes at `addr` touches a listed region of either kind. -/
def touchesListed (s : State) (addr len : Nat) : Bool :=
  regionsTouch s.regions .refuses addr len || regionsTouch s.regions .device addr len

/-- Another agent reads destination memory (20_memory.md R57): little-endian. -/
def destRead (w : Width) (addr : Nat) (s : State) : Host.Outcome State Fault Refusal :=
  if addr + w.bytes > 2 ^ s.cfg.addrW then .fault (.noSuchAddress addr)
  else if touchesListed s addr w.bytes then .refused (.notOrdinaryMemory addr)
  else .next (s.reply (.dest w addr (s.mem.readLE addr w.bytes)))

/-- Another agent writes destination memory (20_memory.md R57). -/
def destWrite (w : Width) (addr : Nat) (v : Word) (s : State) : Host.Outcome State Fault Refusal :=
  if addr + w.bytes > 2 ^ s.cfg.addrW then .fault (.noSuchAddress addr)
  else if touchesListed s addr w.bytes then .refused (.notOrdinaryMemory addr)
  else .next { s with mem := s.mem.writeLE addr w.bytes v }

/-- One event of the script. -/
def handleEvent (e : Event) (s : State) : Host.Outcome State Fault Refusal :=
  match e with
  | .read w off => hostRead w off s
  | .write w off v => hostWrite w off v s
  | .unitTurn => unitTurn s
  | .writerTurn i => writerTurn i s
  | .mixTurn => mixTurn s
  | .reset => resetTurn s
  | .platform rs => .next { s with regions := rs }
  | .destRead w addr => destRead w addr s
  | .destWrite w addr v => destWrite w addr v s

/-- The next thing that happens: the head of the script, or, when the script is empty, the command unit's turn, so
that every accepted command completes (70_reset_and_hazards.md R157, log entry 4). -/
def nextTurn (s : State) : Host.Outcome State Fault Refusal :=
  match s.events with
  | [] => unitTurn s
  | e :: rest => handleEvent e { s with events := rest }

/-- A state in which `word` has just been accepted, whatever it is, with the operand registers latched. -/
def acceptWord (word : Half) (s : State) : State :=
  match decode word with
  | .ok i => accept word i s
  | .error _ => { s with inflight := some ⟨word, s.liveOperands, [], 0⟩ }

/-- `acceptWord`, and the command unit has the next turn. -/
def placeCommand (word : Half) (s : State) : State :=
  { acceptWord word s with events := .unitTurn :: s.events }

end Sys2Proof.Machine
end

