-- ==== Sys2Proof/Machine/Step.lean ====
section
/-! DEFINITION. One step of the machine: one event of the script, or the command unit's turn; and the placing of a
command so that the next step performs it. -/

namespace Sys2Proof.Machine

/-- One step. A configuration that is not well formed is refused (00_scope.md R14). -/
def step (s : State) : Host.Outcome State Fault Refusal :=
  if s.cfg.wf then nextTurn s else .refused .badConfiguration

/-- `s` with the command whose bits are `w` accepted and about to be performed: MIXR fetches nothing (20_memory.md
R60), its commands arrive as CMD writes, and this stands for the acceptance of that write (log entry 2). -/
def State.withFetchWord (s : State) (nbits w : Nat) : State :=
  placeCommand (BitVec.ofNat 32 (w % 2 ^ nbits)) s

end Sys2Proof.Machine
end

