-- ==== Sys2Proof/Machine/Datapath.lean ====
section
/-! DEFINITION. The fill datapath's schedule (43_fill.md, section 2): the four tiers of R115 and the vector lanes of
R116. The meanings of the FILL commands follow section 1, the normative result; this schedule is the design that must
give the same elements (R117), which the statements say of it. -/

namespace Sys2Proof.Machine

/-- Where the datapath stands: the private state FSTATE and the number of elements still to fill. -/
structure FillCursor where
  st : Word
  left : Nat
deriving DecidableEq, Repr

/-- One raw word converted to its elements: one for FILL.D, two for FILL.S, low half first (43_fill.md R115 (3)). -/
def scalarWord (b : ElemSize) (m : ScaleMode) (w : Word) : List Word :=
  match b with
  | .d => [cvt64 m w]
  | .s => [(cvt32 m (lo32 w)).setWidth 64, (cvt32 m (hi32 w)).setWidth 64]

/-- Words converted one after the other. -/
def scalarWords (b : ElemSize) (m : ScaleMode) (ws : List Word) : List Word :=
  match ws with
  | [] => []
  | w :: rest => scalarWord b m w ++ scalarWords b m rest

/-- The lanes of one vector register for the words `ws` (43_fill.md R116): 64-bit lanes for FILL.D; 32-bit lanes for
FILL.S, lane 2j the low half and lane 2j + 1 the high half of word j. -/
def vectorLanes (b : ElemSize) (ws : List Word) : List Word :=
  match b with
  | .d => ws
  | .s => ws.flatMap (fun w => [(lo32 w).setWidth 64, (hi32 w).setWidth 64])

/-- One lane: shifted right by 11 logically, converted, scaled, packed (43_fill.md R116; the source's "arithmetic"
shift is overruled, 90_conflicts.md C2). Lanes are independent. -/
def laneResult (b : ElemSize) (m : ScaleMode) (lane : Word) : Word :=
  match b with
  | .d => BitVec.ofNat 64 (fmul binary64 (ofInteger binary64 (lane >>> 11).toNat) (scale64 m))
  | .s => BitVec.ofNat 64 (fmul binary32 (ofInteger binary32 (lane >>> 11).toNat) (scale32 m))

/-- One vector operation on VEC_LANES64 words (43_fill.md R116). -/
def vectorOp (b : ElemSize) (m : ScaleMode) (ws : List Word) : List Word :=
  (vectorLanes b ws).map (laneResult b m)

/-- `ops` vector operations of `lanes` words each on the words of one chunk. -/
def vectorOps (b : ElemSize) (m : ScaleMode) (lanes ops : Nat) (ws : List Word) : List Word :=
  match ops with
  | 0 => []
  | k + 1 => vectorOp b m (ws.take lanes) ++ vectorOps b m lanes k (ws.drop lanes)

/-- The elements of one chunk of FILL_UNROLL raw words (43_fill.md R115). -/
def chunkElems (c : Config) (b : ElemSize) : Nat :=
  match b with
  | .d => c.fillUnroll
  | .s => 2 * c.fillUnroll

/-- Tier 1, the fix-up (43_fill.md R111): one element from one word. -/
def fixupTier (j : FillJob) (q : FillCursor) : List Word × FillCursor :=
  if hasFixup j && decide (1 ≤ q.left) then
    let p := mix j.strat q.st
    ([(cvtfix j.scale p.2).setWidth 64], ⟨p.1, q.left - 1⟩)
  else ([], q)

/-- `k` whole chunks, each mixed in order and converted by `conv` (43_fill.md R115 (2), (3)). -/
def chunks (c : Config) (j : FillJob) (conv : List Word → List Word) (k : Nat) (q : FillCursor) :
    List Word × FillCursor :=
  match k with
  | 0 => ([], q)
  | n + 1 =>
    let p := mixSteps j.strat c.fillUnroll q.st
    let rest := chunks c j conv n ⟨p.2, q.left - chunkElems c j.size⟩
    (conv p.1 ++ rest.1, rest.2)

/-- Tier 2, the vector path, only when VEC_EN = 1: while at least one whole chunk of elements remains
(43_fill.md R115 (2)). -/
def vectorTier (c : Config) (j : FillJob) (q : FillCursor) : List Word × FillCursor :=
  if c.vecEn then
    chunks c j (vectorOps j.size j.scale c.vecLanes64 (c.fillUnroll / c.vecLanes64))
      (q.left / chunkElems c j.size) q
  else ([], q)

/-- Tier 3, the unrolled scalar path: while at least one whole chunk of elements remains (43_fill.md R115 (3)). -/
def scalarTier (c : Config) (j : FillJob) (q : FillCursor) : List Word × FillCursor :=
  chunks c j (scalarWords j.size j.scale) (q.left / chunkElems c j.size) q

/-- Tier 4, the tail: one freshly mixed buffer of `words` words, converted in the same manner, stopping exactly at the
destination's end (43_fill.md R115 (4)). The buffer's size is not specified (R118): it is the argument. -/
def tailTier (j : FillJob) (words : Nat) (q : FillCursor) : List Word × FillCursor :=
  if q.left = 0 then ([], q)
  else
    let p := mixSteps j.strat words q.st
    ((scalarWords j.size j.scale p.1).take q.left, ⟨p.2, 0⟩)

/-- The elements the datapath produces, in address order, and the FSTATE it leaves (43_fill.md R115). -/
def datapathFill (c : Config) (j : FillJob) (tailWords : Nat) : List Word × FillCursor :=
  let t1 := fixupTier j ⟨j.seed, j.count⟩
  let t2 := vectorTier c j t1.2
  let t3 := scalarTier c j t2.2
  let t4 := tailTier j tailWords t3.2
  (t1.1 ++ t2.1 ++ t3.1 ++ t4.1, t4.2)

end Sys2Proof.Machine
end

