-- ==== Sys2Proof/Machine/HostSyntax.lean ====
section
/-! DEFINITION. The host program notation of 30_encoding.md R69, as the events it puts on the bus. The host's variables
and branches are not MIXR operations; only what reaches the block is here. -/

namespace Sys2Proof.Machine

/-- A line of a host program (30_encoding.md R69). -/
inductive HostLine where
  | wr (r : Reg) (v : Word)
  | rd (r : Reg)
  | cmd (i : Instr)
  | wait
  | run (i : Instr)
deriving DecidableEq, Repr

/-- `wr REG, v`: a 64-bit MMIO write. -/
def wrEvents (r : Reg) (v : Word) : List Event := [.write .w64 (regOffset r) v]

/-- `rd t, REG`: a 64-bit MMIO read. -/
def rdEvents (r : Reg) : List Event := [.read .w64 (regOffset r)]

/-- `cmd MNEMONIC`: `wr CMD, word`. -/
def cmdEvents (i : Instr) : List Event := wrEvents .cmd ((encode i).setWidth 64)

/-- `wait`: reads of STATUS until BUSY reads 0. This is the schedule in which the command unit completes before the
loop's first read (log entry 23); the other schedules are the scripts with more reads before the turn. -/
def waitEvents : List Event := .unitTurn :: rdEvents .status

/-- The events of one line. -/
def lineEvents (l : HostLine) : List Event :=
  match l with
  | .wr r v => wrEvents r v
  | .rd r => rdEvents r
  | .cmd i => cmdEvents i
  | .wait => waitEvents
  | .run i => cmdEvents i ++ waitEvents

/-- The events of a program, in order. -/
def programEvents (p : List HostLine) : List Event := p.flatMap lineEvents

end Sys2Proof.Machine
end

