-- ==== Sys2Proof/Safety.lean ====
section
/-! DEFINITION. What the statements call a well-formed state (the invariant of 10_state.md R45 and of every other rule
that a reachable state keeps) and a script that contains nothing the model stops on. -/

namespace Sys2Proof.Machine

/-- The engine's shape (10_state.md R27, R28, R45): in buffered mode BUF has N words and `0 ≤ CURSOR ≤ 8N`; in
unbuffered mode there is no buffer and CURSOR is 0. -/
def State.engineOk (s : State) : Prop :=
  if s.cfg.engUnroll > 1 then s.buf.length = s.cfg.engUnroll ∧ s.cursor.toNat ≤ 8 * s.cfg.engUnroll
  else s.buf = [] ∧ s.cursor = 0#10

/-- The in-flight record (10_state.md R41, 60_exceptions.md R127, R129): the latched operands are those the operand
registers still hold (R35: writes to them are dropped), the word is legal and passed validation, only a FILL has
elements performed early or mixing steps taken, FSTATE of a FILL is the substituted seed advanced by the steps it has
taken (R32, 43_fill.md R107, R109), none when n = 0 (R118), and the elements performed early exist, are listed once, and
are made from words already mixed. -/
def State.recordOk (s : State) : Prop :=
  ∀ r, s.inflight = some r →
    r.ops = s.liveOperands ∧
    ∃ i, decode r.word = .ok i ∧ rejection s.cfg i r.ops = none ∧
      (fillForm i = none → r.written = [] ∧ r.mixed = 0) ∧
      (∀ b k, fillForm i = some (b, k) →
        s.fstate = streamState k (substSeed s.cfg r.ops.fseed) r.mixed ∧
        (r.ops.fcount = 0#64 → r.mixed = 0) ∧
        ∀ e ∈ r.written, wordIndex (fillJob s.cfg b k r.ops) e < r.mixed) ∧
      r.written.Nodup ∧ ∀ e ∈ r.written, e < r.ops.fcount.toNat

/-- Destination memory is in its canonical form and lists only addresses that exist (20_memory.md R46). -/
def State.memoryOk (s : State) : Prop := s.mem.wf = true ∧ s.mem.below s.cfg.addrW = true

/-- The invariant every step keeps. -/
def State.Inv (s : State) : Prop := s.cfg.wf = true ∧ s.engineOk ∧ s.recordOk ∧ s.memoryOk

/-- An event that neither resets the block nor can stop the model: a supported MMIO access (20_memory.md R50) or an
agent's turn. -/
def Event.ordinary (e : Event) : Bool :=
  match e with
  | .read w off => mmioSupported w off
  | .write w off _ => mmioSupported w off
  | .unitTurn => true
  | .writerTurn _ => true
  | .mixTurn => true
  | .reset => false
  | .platform _ => false
  | .destRead _ _ => false
  | .destWrite _ _ _ => false

/-- A state whose script is ordinary and whose destination memory has no device region: no step of it stops. -/
def State.Calm (s : State) : Prop :=
  (∀ e ∈ s.events, e.ordinary = true) ∧ ∀ r ∈ s.regions, r.kind ≠ .device

end Sys2Proof.Machine
end

