-- ==== Sys2Proof/Certificates/Slice0/Reference.lean ====
section
/-! DEFINITION. The vocabulary of the statements: the spec's formulas written a second time, over natural and rational
numbers and without the model's operations, so that a statement compares the model with the rule and not with itself. -/

namespace Sys2Proof.Reference

open Sys2Proof Sys2Proof.Machine

/-! The mixer over natural numbers (40_mixer.md R72 to R74), with the constants as the source prints them. -/

/-- R72: the next state and the word. -/
def mixA2 (s : Nat) : Nat × Nat :=
  let s1 := (s + 0x60bee2bee120fc15) % 2 ^ 64
  let t1 := s1 * 0xa3b195354a39b70d
  let m1 := (t1 / 2 ^ 64) ^^^ (t1 % 2 ^ 64)
  let t2 := m1 * 0x1b03738712fad5c9
  (s1, (t2 / 2 ^ 64) ^^^ (t2 % 2 ^ 64))

/-- R73: the next state and the word. -/
def mixA1 (s : Nat) : Nat × Nat :=
  let s1 := (s + 0x60bee2bee120fc15) % 2 ^ 64
  let t := (s1 ^^^ 0xe7037ed1a0b428db) * s1
  (s1, (t % 2 ^ 64) ^^^ (t / 2 ^ 64))

/-- R74: the next state and the word, with PRIME1 and PRIME3 in the decimal form of R21. -/
def mixB (s : Nat) : Nat × Nat :=
  let x0 := (s + 11400714785074694791) % 2 ^ 64
  let x1 := x0 ^^^ (x0 / 2 ^ 29)
  let x2 := (x1 * 1609587929392839161) % 2 ^ 64
  let x3 := x2 ^^^ (x2 / 2 ^ 32)
  (x3, x3)

/-- R75. -/
def mix (k : Strategy) (s : Nat) : Nat × Nat :=
  match k with
  | .a2 => mixA2 s
  | .a1 => mixA1 s
  | .b => mixB s

/-- The state after `i` mixing steps. -/
def stateAfter (k : Strategy) (s : Nat) (i : Nat) : Nat :=
  match i with
  | 0 => s
  | j + 1 => (mix k (stateAfter k s j)).1

/-- The word of the mixing step that follows `i` steps. -/
def wordAfter (k : Strategy) (s : Nat) (i : Nat) : Nat := (mix k (stateAfter k s i)).2

/-! The opcode map. -/

/-- The word of each row of the opcode map, as 30_encoding.md R66 prints it. -/
def opcodeWord (i : Instr) : Nat :=
  match i with
  | .mixpA2 => 0x01000000
  | .mixpA1 => 0x01100000
  | .mixpB => 0x01200000
  | .seed => 0x10000000
  | .drawB => 0x11000000
  | .drawH => 0x11100000
  | .drawW => 0x11200000
  | .drawD => 0x11300000
  | .drawQ => 0x11400000
  | .cvtD => 0x20000000
  | .cvtS => 0x20100000
  | .cvtS2 => 0x20200000
  | .cvtSfix => 0x20300000
  | .fillDA2 => 0x30000000
  | .fillDA1 => 0x30100000
  | .fillDB => 0x30200000
  | .fillSA2 => 0x31000000
  | .fillSA1 => 0x31100000
  | .fillSB => 0x31200000

/-! The engine. -/

/-- OUT as one 128-bit number (10_state.md R25). -/
def out (t : State) : Nat := t.outLo.toNat + 2 ^ 64 * t.outHi.toNat

/-- Byte `i` of BUF's byte image as a number (10_state.md R28). -/
def bufByte (buf : List Word) (i : Nat) : Nat := ((buf.getD (i / 8) 0#64).toNat / 2 ^ (8 * (i % 8))) % 256

/-- Byte `j` of a number. -/
def byteAt (n j : Nat) : Nat := n / 2 ^ (8 * j) % 256

/-- The words that `m` DRAW.D in a row give, if each of them completes. -/
def drawsD (m : Nat) (s : State) : Option (List Word) :=
  match m with
  | 0 => some []
  | n + 1 =>
    match exec .drawD s with
    | .next t => (drawsD n t).map (fun ws => t.outLo :: ws)
    | .fault _ => none
    | .refused _ => none

/-! IEEE 754 over the rationals (00_scope.md R18). -/

/-- The value of the non-negative finite encoding `enc` of a format with a `p`-bit significand and a `w`-bit exponent
field. -/
def floatValue (p w enc : Nat) : ℚ :=
  let bias : ℤ := 2 ^ (w - 1) - 1
  let e := enc / 2 ^ (p - 1)
  let frac : ℚ := (enc % 2 ^ (p - 1) : Nat) / 2 ^ (p - 1)
  if e = 0 then frac * 2 ^ (1 - bias) else (1 + frac) * 2 ^ ((e : ℤ) - bias)

/-- The non-negative finite encodings. -/
def finiteEnc (p w enc : Nat) : Prop := enc < (2 ^ w - 1) * 2 ^ (p - 1)

/-- `enc` is `r` rounded to nearest, ties to the value whose last significand bit is 0 (00_scope.md R18). -/
def NearestEven (p w : Nat) (r : ℚ) (enc : Nat) : Prop :=
  finiteEnc p w enc ∧
    ∀ x, finiteEnc p w x → x ≠ enc →
      |floatValue p w enc - r| < |floatValue p w x - r| ∨
        (|floatValue p w enc - r| = |floatValue p w x - r| ∧ enc % 2 = 0)

/-- S64 as an exact number (42_convert.md R93). -/
def scale64 (m : ScaleMode) : ℚ :=
  match m with
  | .doc => (1 + 1 / 2 ^ 52) / 2 ^ 53
  | .pow2 => 1 / 2 ^ 53

/-- S32 as an exact number (42_convert.md R93). -/
def scale32 (m : ScaleMode) : ℚ :=
  match m with
  | .doc => (1 + 1 / 2 ^ 21) / 2 ^ 21
  | .pow2 => 1 / 2 ^ 21

/-- `enc` is the binary32 element that the 32-bit value `h` is converted to (42_convert.md R98, R96). -/
def ConvertsHalf (m : ScaleMode) (h enc : Nat) : Prop := NearestEven 24 8 ((h / 2 ^ 11 : Nat) * scale32 m) enc

/-! The fill. -/

/-- The operands pass validation (43_fill.md R108) with `n > 0`. -/
def FillAccepted (c : Config) (b : ElemSize) (o : Operands) : Prop :=
  0 < o.fcount.toNat ∧ o.fdst.toNat % elemBytes b = 0 ∧
    o.fdst.toNat + o.fcount.toNat * elemBytes b ≤ 2 ^ c.addrW

/-- A command is not rejected at submission (60_exceptions.md R127, 43_fill.md R108). -/
def Admissible (c : Config) (i : Instr) (o : Operands) : Prop :=
  ∀ b k, fillForm i = some (b, k) → o.fcount = 0#64 ∨ FillAccepted c b o

/-- A region overlaps `[a, a + len)`; one of size 0 overlaps nothing (the model's choice, log entry 27). -/
def Overlaps (r : Region) (a len : Nat) : Prop := 0 < r.size ∧ r.base < a + len ∧ a < r.base + r.size

/-- No device region overlaps the destination of a FILL. -/
def NoDeviceTarget (s : State) (b : ElemSize) : Prop :=
  ∀ r ∈ s.regions, r.kind = .device → ¬ Overlaps r s.operands.fdst.toNat (s.operands.fcount.toNat * elemBytes b)

/-- Some refusing region overlaps element `e` of a FILL. -/
def RefusedElement (s : State) (b : ElemSize) (e : Nat) : Prop :=
  ∃ r ∈ s.regions, r.kind = .refuses ∧ Overlaps r (s.operands.fdst.toNat + e * elemBytes b) (elemBytes b)

/-- No device region overlaps the destination of a FILL, and no refusing region an element still to be performed: every
write that is left to do succeeds. -/
def WritableTarget (s : State) (b : ElemSize) : Prop :=
  NoDeviceTarget s b ∧ ∀ e, e < s.operands.fcount.toNat → e ∉ s.written → ¬ RefusedElement s b e

/-- The place in the sequence of word halves, low half first, of the half that element `i` of a FILL.S at address `a` is
made from: with the fix-up the first half of the stream is dropped (43_fill.md R110, R113; 42_convert.md R99). -/
def halfPlace (a i : Nat) : Nat := if a % 8 = 4 then i + 1 else i

/-- The index, from 0, of the raw word that element `i` is made from (43_fill.md R110). -/
def wordOf (b : ElemSize) (a i : Nat) : Nat :=
  match b with
  | .d => i
  | .s => halfPlace a i / 2

/-- The half that element `i` of a FILL.S is made from: the low half of its word at an even place, the high half at an
odd one (43_fill.md R110; of a fix-up value, the high half of word 0, 42_convert.md R99). -/
def halfOf (j : FillJob) (i : Nat) : Nat :=
  let w := (streamWord j.strat j.seed (wordOf .s j.dst i)).toNat
  if halfPlace j.dst i % 2 = 0 then w % 2 ^ 32 else w / 2 ^ 32

/-- Every byte outside the destination of a FILL reads the same in `m'` as in `m` (43_fill.md R112). -/
def SameOutside (b : ElemSize) (o : Operands) (m m' : Memory) : Prop :=
  ∀ x, x < o.fdst.toNat ∨ o.fdst.toNat + o.fcount.toNat * elemBytes b ≤ x → m'.read x = m.read x

/-- The bytes of element `e` read the same in `m'` as in `m`. -/
def ElemOld (b : ElemSize) (o : Operands) (m m' : Memory) (e : Nat) : Prop :=
  ∀ q, q < elemBytes b →
    m'.read (o.fdst.toNat + e * elemBytes b + q) = m.read (o.fdst.toNat + e * elemBytes b + q)

/-- The bytes of element `e` are those of E(e), least significant first (20_memory.md R47). -/
def ElemNew (c : Config) (b : ElemSize) (k : Strategy) (o : Operands) (m' : Memory) (e : Nat) : Prop :=
  ∀ q, q < elemBytes b →
    (m'.read (o.fdst.toNat + e * elemBytes b + q)).toNat = byteAt (fillElem (fillJob c b k o) e).toNat q

/-- What FILL command `i` (width `b`, strategy `k`) does when it is accepted with n > 0 and every write left to do
succeeds (a region may refuse elements already performed early): it answers a next state in which every element not performed early holds E(e), every element performed early is
as it was, nothing outside the destination changed, LASTERR is 0 and no command is in flight; FSTATE is not
constrained; nothing else changed (43_fill.md R112, R120). -/
def FillWritesElements (i : Instr) (b : ElemSize) (k : Strategy) : Prop :=
  ∀ s : State, s.mem.wf = true → FillAccepted s.cfg b s.operands → WritableTarget s b →
    ∃ t, exec i s = .next t ∧
      (∀ e, e < s.operands.fcount.toNat →
        (e ∉ s.written → ElemNew s.cfg b k s.operands t.mem e) ∧
        (e ∈ s.written → ElemOld b s.operands s.mem t.mem e)) ∧
      SameOutside b s.operands s.mem t.mem ∧ t.mem.wf = true ∧
      t = { s with mem := t.mem, fstate := t.fstate, draws := t.draws, lastErr := .none, inflight := none }

/-- A FILL with n = 0 is accepted and completes with no write, whatever FDST holds (43_fill.md R108). -/
def FillOfNoneIsNoop (i : Instr) : Prop :=
  ∀ s : State, s.operands.fcount = 0#64 →
    ∃ t, exec i s = .next t ∧
      t = { s with fstate := t.fstate, draws := t.draws, lastErr := .none, inflight := none }

/-- Performing a FILL with n > 0 that fails validation is its rejection: ALIGN first, then RANGE, and nothing but LASTERR,
ERRS and BUSY changes. The spec rejects at submission (43_fill.md R108, 60_exceptions.md R128, R132); that `exec`
validates again is the model's choice, log entries 3 and 20. -/
def FillRejects (i : Instr) (b : ElemSize) : Prop :=
  ∀ s : State, 0 < s.operands.fcount.toNat →
    (s.operands.fdst.toNat % elemBytes b ≠ 0 →
      exec i s = .next { s with lastErr := .align, errs := true, inflight := none }) ∧
    (s.operands.fdst.toNat % elemBytes b = 0 →
      2 ^ s.cfg.addrW < s.operands.fdst.toNat + s.operands.fcount.toNat * elemBytes b →
      exec i s = .next { s with lastErr := .range, errs := true, inflight := none })

/-- An accepted FILL one of whose writes is refused ends with BUS: each element old or new, whole; nothing outside the
destination changed; no register but STATUS (and FSTATE) changed (60_exceptions.md R133). -/
def FillEndsWithBus (i : Instr) (b : ElemSize) (k : Strategy) : Prop :=
  ∀ s : State, s.mem.wf = true → FillAccepted s.cfg b s.operands → NoDeviceTarget s b →
    (∃ e, e < s.operands.fcount.toNat ∧ e ∉ s.written ∧ RefusedElement s b e) →
    ∃ t, exec i s = .next t ∧
      (∀ e, e < s.operands.fcount.toNat →
        ElemOld b s.operands s.mem t.mem e ∨ ElemNew s.cfg b k s.operands t.mem e) ∧
      SameOutside b s.operands s.mem t.mem ∧ t.mem.wf = true ∧
      t = { s with mem := t.mem, fstate := t.fstate, draws := t.draws, lastErr := .bus, errs := true,
                   inflight := none }

/-- A FILL aimed at a device region is refused by name (20_memory.md R53). -/
def FillRefusesDevice (i : Instr) (b : ElemSize) : Prop :=
  ∀ s : State, FillAccepted s.cfg b s.operands →
    (∃ r ∈ s.regions, r.kind = .device ∧
      Overlaps r s.operands.fdst.toNat (s.operands.fcount.toNat * elemBytes b)) →
    exec i s = .refused .deviceTarget

/-! The register window. -/

/-- The value of a 64-bit register after a supported write of `v` at `off` (20_memory.md R49, R50). -/
def merged (old v : Nat) (w : Width) (off : Nat) : Nat :=
  match w with
  | .w64 => v
  | .w32 => if off % 8 = 4 then v % 2 ^ 32 * 2 ^ 32 + old % 2 ^ 32 else old / 2 ^ 32 * 2 ^ 32 + v % 2 ^ 32
  | .w16 => old
  | .w8 => old

/-- The value a supported read at `off` answers of a register that holds `v` (20_memory.md R49). -/
def part (v : Nat) (w : Width) (off : Nat) : Nat :=
  match w with
  | .w64 => v
  | .w32 => if off % 8 = 4 then v / 2 ^ 32 else v % 2 ^ 32
  | .w16 => 0
  | .w8 => 0

/-- STATUS as a number (10_state.md R33 to R36, 60_exceptions.md R131). -/
def status (s : State) : Nat :=
  (if s.inflight = none then 0 else 1) + (if s.errs then 2 else 0) + (if s.drop then 4 else 0) +
    16 * (match s.lastErr with | .none => 0 | .illegal => 1 | .align => 2 | .range => 3 | .bus => 4)

/-- CFG as a number (10_state.md R38). -/
def cfg (c : Config) : Nat :=
  c.engUnroll + 2 ^ 8 * (match c.engStrat with | .a2 => 0 | .a1 => 1 | .b => 2) +
    2 ^ 10 * (if c.vecEn then 1 else 0) + 2 ^ 11 * (match c.scaleMode with | .doc => 0 | .pow2 => 1) +
    2 ^ 16 * c.fillUnroll + 2 ^ 24 * c.vecLanes64 + 2 ^ 32 * c.addrW + 2 ^ 40 * 1

/-- What an MMIO register of the window holds, as a number (10_state.md R22), by the slot `off / 8`. -/
def window (s : State) (slot : Nat) : Nat :=
  match slot with
  | 0 => cfg s.cfg
  | 1 => status s
  | 3 => s.arg0.toNat
  | 4 => s.outLo.toNat
  | 5 => s.outHi.toNat
  | 6 => s.engState.toNat
  | 7 => if s.cfg.engUnroll ≤ 1 then 0 else s.cursor.toNat
  | 8 => s.fdst.toNat
  | 9 => s.fcount.toNat
  | 10 => s.fseed.toNat
  | 11 => s.cfg.defaultSeed.toNat
  | _ => 0

/-- The state with the head of its script taken off. -/
def popped (s : State) (rest : List Event) : State := { s with events := rest }

/-- The next thing on the bus is a write that submits `word`: a 64-bit or a 32-bit write to offset 0x10 with `word` in
bits [31:0] (10_state.md R24). -/
def SubmitsNext (s : State) (word : Half) (rest : List Event) : Prop :=
  ∃ w v, (w = Width.w64 ∨ w = Width.w32) ∧ (v : Word).extractLsb' 0 32 = word ∧
    s.events = .write w 0x10#8 v :: rest

/-- The registers of the block stand as 70_reset_and_hazards.md R146 tabulates for configuration `c` (FSTATE is
unspecified there and is left out). -/
def AtReset (c : Config) (s : State) : Prop :=
  s.cfg = c ∧ s.inflight = none ∧ s.errs = false ∧ s.drop = false ∧ s.lastErr = .none ∧ s.arg0 = 0#64 ∧
    s.outLo = 0#64 ∧ s.outHi = 0#64 ∧ s.engState = c.defaultSeed ∧
    s.buf = (if c.engUnroll > 1 then List.replicate c.engUnroll 0#64 else []) ∧
    s.cursor.toNat = (if c.engUnroll > 1 then 8 * c.engUnroll else 0) ∧
    s.fdst = 0#64 ∧ s.fcount = 0#64 ∧ s.fseed = 0#64

end Sys2Proof.Reference
end

