-- ==== Sys2Proof/Certificates/Slice0/Obligations.lean ====
section
/-! DEFINITION. The statements for the provers. Each docstring names the rules of spec/ it rests on. -/

open Sys2Proof Sys2Proof.Machine Sys2Proof.Reference

/-! ## Reset -/

/-- 70_reset_and_hazards.md R146: every register after power-on reset, in every configuration, and the same values when
reset is asserted later, with the parameters, the platform's map and the answers of reads kept, and with memory kept
where no command is in flight. Only a FILL in flight that is aimed at a device region is left out (log entry 12). -/
def Obligations.ResetGivesTabulatedValues : Prop :=
  (∀ c : Config, c.wf = true → AtReset c (State.resetOf c)) ∧
  (State.reset = State.resetOf Config.default) ∧
  ∀ (s : State) rest, s.cfg.wf = true → s.events = .reset :: rest →
    (∀ r i b k, s.inflight = some r → decode r.word = .ok i → fillForm i = some (b, k) →
      FillAccepted s.cfg b r.ops → NoDeviceTarget s b) →
    ∃ t, step s = .next t ∧ AtReset s.cfg t ∧ t.regions = s.regions ∧ t.replies = s.replies ∧ t.events = rest ∧
      (s.inflight = none → t.mem = s.mem)

/-- The invariant of the model holds after reset in every well-formed configuration (10_state.md R45). -/
def Obligations.ResetStateSatisfiesInvariant : Prop :=
  (∀ c : Config, c.wf = true → (State.resetOf c).Inv) ∧ State.reset.Inv

/-- 70_reset_and_hazards.md R147: a reset while a command is in flight abandons it, with the registers at their reset
values; a FILL's destination elements are each old or new, whole, and no byte outside the destination changed; another
command leaves memory alone. -/
def Obligations.ResetDuringFillLeavesWholeElements : Prop :=
  ∀ (s : State) (rest : List Event) (r : InFlight) (i : Instr),
    s.cfg.wf = true → s.mem.wf = true → s.events = .reset :: rest → s.inflight = some r → decode r.word = .ok i →
    (∀ b k, fillForm i = some (b, k) → FillAccepted s.cfg b r.ops → NoDeviceTarget s b →
      ∃ t, step s = .next t ∧ AtReset s.cfg t ∧ SameOutside b r.ops s.mem t.mem ∧ t.mem.wf = true ∧
        ∀ e, e < r.ops.fcount.toNat → ElemOld b r.ops s.mem t.mem e ∨ ElemNew s.cfg b k r.ops t.mem e) ∧
    ((fillForm i = none ∨ r.ops.fcount = 0#64) → ∃ t, step s = .next t ∧ AtReset s.cfg t ∧ t.mem = s.mem)

/-- 70_reset_and_hazards.md R148: with no command in flight and nothing on the bus the block waits. -/
def Obligations.IdleBlockWaits : Prop :=
  ∀ s : State, s.cfg.wf = true → s.inflight = none → s.events = [] → step s = .next s

/-! ## Invariants of every step -/

/-- Every step keeps the invariant: the buffer's shape and `0 ≤ CURSOR ≤ 8N` (10_state.md R45), the in-flight record's
agreement with the operand registers (R35, R41), FSTATE advanced by the mixing steps taken (R32), memory canonical and inside the address space (20_memory.md R46). -/
def Obligations.EveryStepKeepsInvariant : Prop :=
  ∀ s t : State, s.Inv → step s = .next t → t.Inv

/-- 10_state.md R38, R39: across any step, reset included, CFG reads as the build parameters in their fields and DSEED as
DEFAULT_SEED, and none of them changes. -/
def Obligations.BuildParametersNeverChange : Prop :=
  ∀ s t : State, step s = .next t →
    t.cfg = s.cfg ∧ (readWindow t .w64 0x00#8).toNat = Reference.cfg s.cfg ∧
    readWindow t .w64 0x58#8 = s.cfg.defaultSeed

/-- 10_state.md R25, 60_exceptions.md R130, 70_reset_and_hazards.md R151: while a command stays in flight no step shows
any of its register effects: OUT, STATE, CURSOR, BUF, LASTERR, the operand registers and the latched record stand. -/
def Obligations.InFlightCommandHidesItsEffects : Prop :=
  ∀ (s t : State) (r r' : InFlight), s.inflight = some r → step s = .next t → t.inflight = some r' →
    t.outLo = s.outLo ∧ t.outHi = s.outHi ∧ t.engState = s.engState ∧ t.cursor = s.cursor ∧ t.buf = s.buf ∧
    t.lastErr = s.lastErr ∧ t.arg0 = s.arg0 ∧ t.fdst = s.fdst ∧ t.fcount = s.fcount ∧ t.fseed = s.fseed ∧
    r'.word = r.word ∧ r'.ops = r.ops

/-! ## Encoding -/

/-- 30_encoding.md R66: decode is exact match against the printed words, for every 32-bit word; decoding an encoded
command gives it back, and the table's words are read the same way. -/
def Obligations.DecodeIsExactMatch : Prop :=
  (∀ (w : Half) (i : Instr), decode w = .ok i ↔ w.toNat = Reference.opcodeWord i) ∧
  ∀ i : Instr, i.wellFormed = true ∧ decode (encode i) = .ok i ∧
    decodeTableWord 32 (Reference.opcodeWord i) = some i

/-- 30_encoding.md R66: a few rows of the opcode map, each word as printed there. -/
def Obligations.OpcodeMapWordsDecode : Prop :=
  decode 0x01000000#32 = .ok .mixpA2 ∧ decode 0x10000000#32 = .ok .seed ∧ decode 0x11300000#32 = .ok .drawD ∧
  decode 0x20200000#32 = .ok .cvtS2 ∧ decode 0x30100000#32 = .ok .fillDA1 ∧ decode 0x31200000#32 = .ok .fillSB

/-- 30_encoding.md R68, 60_exceptions.md R128: submitting, while BUSY = 0, a word that matches no row of the map sets
LASTERR to ILLEGAL and ERRS, and changes nothing else. -/
def Obligations.IllegalWordsAreRejected : Prop :=
  ∀ (s : State) (word : Half) (rest : List Event), s.cfg.wf = true → s.inflight = none → SubmitsNext s word rest →
    (∀ i : Instr, word.toNat ≠ Reference.opcodeWord i) →
    step s = .next { popped s rest with lastErr := .illegal, errs := true }

/-- 30_encoding.md R70: the mnemonics of the opcode map and the four aliases. -/
def Obligations.MnemonicsNameTheirCommands : Prop :=
  (∀ i : Instr, commandOfMnemonic i.mnemonic = some i) ∧
  commandOfMnemonic "FILL.D" = some .fillDA2 ∧ commandOfMnemonic "FILL.S" = some .fillSA2 ∧
  commandOfMnemonic "MIXP" = some .mixpA2 ∧ commandOfMnemonic "DRAW" = some .drawD

/-! ## Submission and the step -/

/-- A step runs the decoded command: when the command in flight decodes to `i`, the command unit's turn (the head of
the script, or an empty script) is `exec i`; and a placed table word is run by the very next step. -/
def Obligations.StepRunsTheCommandInFlight : Prop :=
  (∀ (s : State) (r : InFlight) (i : Instr), s.cfg.wf = true → s.inflight = some r → decode r.word = .ok i →
    i.wellFormed = true →
    (s.events = [] → step s = exec i s) ∧
    ∀ rest, s.events = .unitTurn :: rest → step s = exec i (popped s rest)) ∧
  ∀ (s : State) (nbits w : Nat) (i : Instr), s.cfg.wf = true → decodeTableWord nbits w = some i →
    step (s.withFetchWord nbits w) = exec i (accept (BitVec.ofNat 32 (w % 2 ^ nbits)) i s)

/-- 60_exceptions.md R129, 10_state.md R33, R41: a legal command that passes validation is accepted: its word and the
operand registers are latched, BUSY becomes 1, a FILL sets FSTATE to the substituted seed (43_fill.md R107), and
nothing else changes. -/
def Obligations.LegalCommandIsAccepted : Prop :=
  ∀ (s : State) (rest : List Event) (i : Instr), s.cfg.wf = true → s.inflight = none → SubmitsNext s (encode i) rest →
    Admissible s.cfg i s.liveOperands →
    ∃ t, step s = .next t ∧ t.statusWord.getLsbD 0 = true ∧
      t = { popped s rest with
            inflight := some ⟨encode i, ⟨s.arg0, s.fdst, s.fcount, s.fseed⟩, [], 0⟩
            fstate := if fillForm i = none then s.fstate
                      else if s.fseed = 0#64 then s.cfg.defaultSeed else s.fseed }

/-- 60_exceptions.md R128, R132, 43_fill.md R108: a FILL with n > 0 that fails validation is rejected at submission,
ALIGN before RANGE, with no other change. -/
def Obligations.InvalidFillIsRejectedAtSubmission : Prop :=
  ∀ (s : State) (rest : List Event) (i : Instr) (b : ElemSize) (k : Strategy), s.cfg.wf = true → s.inflight = none →
    SubmitsNext s (encode i) rest → fillForm i = some (b, k) → 0 < s.fcount.toNat →
    (s.fdst.toNat % elemBytes b ≠ 0 →
      step s = .next { popped s rest with lastErr := .align, errs := true }) ∧
    (s.fdst.toNat % elemBytes b = 0 → 2 ^ s.cfg.addrW < s.fdst.toNat + s.fcount.toNat * elemBytes b →
      step s = .next { popped s rest with lastErr := .range, errs := true })

/-- The two-phase command is the synchronous call: on an idle block, submitting an admissible command and then giving
the command unit its turn ends exactly as performing the command at once (60_exceptions.md R129, R130;
92_eei_decisions.md D18). -/
def Obligations.SubmitThenCompleteEqualsExec : Prop :=
  ∀ (s : State) (i : Instr) (w : Width) (v : Word) (rest : List Event), s.cfg.wf = true → s.inflight = none →
    (w = .w64 ∨ w = .w32) → v.extractLsb' 0 32 = encode i →
    s.events = .write w 0x10#8 v :: .unitTurn :: rest → Admissible s.cfg i s.liveOperands →
    Host.Core.run Sys2Proof.core 2 s = exec i (popped s rest)

/-- 60_exceptions.md R130, 70_reset_and_hazards.md R157: every accepted command completes: with an ordinary script it is
out of flight within one step more than the script has events. -/
def Obligations.AcceptedCommandCompletes : Prop :=
  ∀ s : State, s.Inv → s.Calm → s.inflight ≠ none →
    ∃ k, 1 ≤ k ∧ k ≤ s.events.length + 1 ∧
      ∃ t : State, Host.Core.run Sys2Proof.core k s = .next t ∧ t.inflight = none

/-- 60_exceptions.md R136: ERRS masks nothing: with ERRS set, every command is performed, and every word submitted,
exactly as with ERRS clear, and ERRS is then 1. -/
def Obligations.ErrorFlagMasksNothing : Prop :=
  ∀ (s : State) (i : Instr),
    (∀ t, exec i { s with errs := false } = .next t →
      exec i { s with errs := true } = .next { t with errs := true }) ∧
    (∀ f, exec i { s with errs := false } = .fault f → exec i { s with errs := true } = .fault f) ∧
    (∀ f, exec i { s with errs := false } = .refused f → exec i { s with errs := true } = .refused f) ∧
    ∀ word : Half, submit word { s with errs := true } = { submit word { s with errs := false } with errs := true }

/-! ## The register window -/

/-- 10_state.md R22 to R40, 20_memory.md R49, R53: a supported read answers the register's value, or the half it
reaches, and changes nothing. -/
def Obligations.ReadsAnswerAndChangeNothing : Prop :=
  ∀ (s : State) (w : Width) (off : BitVec 8) (rest : List Event), s.cfg.wf = true →
    mmioSupported w off = true → s.events = .read w off :: rest →
    ∃ v : Word, v.toNat = part (window s (off.toNat / 8)) w off.toNat ∧
      step s = .next { popped s rest with replies := .reg w off v :: s.replies }

/-- 10_state.md R35: a write to CMD or to an operand register while BUSY = 1 sets DROP and has no other effect. -/
def Obligations.WritesWhileBusyAreDropped : Prop :=
  ∀ (s : State) (w : Width) (off : BitVec 8) (v : Word) (rest : List Event), s.cfg.wf = true → s.inflight ≠ none →
    mmioSupported w off = true → s.events = .write w off v :: rest →
    (off = 0x10#8 ∨ off.toNat / 8 = 3 ∨ off.toNat / 8 = 8 ∨ off.toNat / 8 = 9 ∨ off.toNat / 8 = 10) →
    step s = .next { popped s rest with drop := true }

/-- 20_memory.md R49, R50, 10_state.md R23, R29 to R31: while BUSY = 0 a write of an operand register changes the part
it reaches and nothing else. -/
def Obligations.OperandWritesChangeOnlyTheirPart : Prop :=
  ∀ (s : State) (w : Width) (off : BitVec 8) (v : Word) (rest : List Event), s.cfg.wf = true → s.inflight = none →
    mmioSupported w off = true → s.events = .write w off v :: rest →
    (off.toNat / 8 = 3 → ∃ x : Word, x.toNat = merged s.arg0.toNat v.toNat w off.toNat ∧
      step s = .next { popped s rest with arg0 := x }) ∧
    (off.toNat / 8 = 8 → ∃ x : Word, x.toNat = merged s.fdst.toNat v.toNat w off.toNat ∧
      step s = .next { popped s rest with fdst := x }) ∧
    (off.toNat / 8 = 9 → ∃ x : Word, x.toNat = merged s.fcount.toNat v.toNat w off.toNat ∧
      step s = .next { popped s rest with fcount := x }) ∧
    (off.toNat / 8 = 10 → ∃ x : Word, x.toNat = merged s.fseed.toNat v.toNat w off.toNat ∧
      step s = .next { popped s rest with fseed := x })

/-- 10_state.md R37: a STATUS write, busy or not, clears ERRS if bit 1 of the written value is 1 and DROP if bit 2 is 1;
every other written bit is ignored and DROP is never set. -/
def Obligations.StatusWriteClearsNamedFlags : Prop :=
  ∀ (s : State) (w : Width) (v : Word) (rest : List Event), s.cfg.wf = true → (w = .w64 ∨ w = .w32) →
    s.events = .write w 0x08#8 v :: rest →
    step s = .next { popped s rest with
      errs := if v.toNat / 2 % 2 = 1 then false else s.errs
      drop := if v.toNat / 4 % 2 = 1 then false else s.drop }

/-- 10_state.md R40: the reserved offsets read 0; writes to them and to CFG, OUT_LO, OUT_HI, STATE, CURSOR and DSEED are
ignored, busy or not. -/
def Obligations.ReadOnlyWritesAreIgnored : Prop :=
  ∀ (s : State) (w : Width) (off : BitVec 8) (v : Word) (rest : List Event), s.cfg.wf = true →
    mmioSupported w off = true →
    ((off.toNat / 8 = 0 ∨ (4 ≤ off.toNat / 8 ∧ off.toNat / 8 ≤ 7) ∨ 11 ≤ off.toNat / 8) →
      s.events = .write w off v :: rest → step s = .next (popped s rest)) ∧
    (12 ≤ off.toNat / 8 → s.events = .read w off :: rest →
      step s = .next { popped s rest with replies := .reg w off 0#64 :: s.replies })

/-- 10_state.md R24 and 20_memory.md R49: a 32-bit write to the upper half of CMD, at 0x14, or of STATUS, at 0x0C, is
ignored. R24 says so of 0x14; that it sets no DROP while BUSY = 1, and 0x0C, are the model's readings (log entries 15
and 16). -/
def Obligations.UpperHalfWritesOfCmdAndStatusAreIgnored : Prop :=
  ∀ (s : State) (off : BitVec 8) (v : Word) (rest : List Event), s.cfg.wf = true → (off = 0x14#8 ∨ off = 0x0C#8) →
    s.events = .write .w32 off v :: rest → step s = .next (popped s rest)

/-- 20_memory.md R50 and 00_scope.md R14: 8-bit, 16-bit and misaligned accesses are refused, and so is a configuration
that is not well formed. -/
def Obligations.UnsupportedAccessesAreRefused : Prop :=
  ∀ (s : State) (rest : List Event),
    (s.cfg.wf = true → ∀ (w : Width) (off : BitVec 8) (v : Word),
      (w = .w8 ∨ w = .w16 ∨ (w = .w32 ∧ off.toNat % 4 ≠ 0) ∨ (w = .w64 ∧ off.toNat % 8 ≠ 0)) →
      (s.events = .read w off :: rest ∨ s.events = .write w off v :: rest) →
      step s = .refused .unsupportedAccess) ∧
    (s.cfg.wf = false → step s = .refused .badConfiguration)

/-! ## Mixer -/

/-- 40_mixer.md R72, R78: MIXP.A2 completes in every state, with the double-fold word in OUT_LO and the next state in
OUT_HI, and changes only OUT, LASTERR and BUSY. -/
def Obligations.MixpA2GivesDoubleFold : Prop :=
  ∀ s : State, ∃ t, exec .mixpA2 s = .next t ∧
    (t.outHi.toNat, t.outLo.toNat) = Reference.mixA2 s.operands.arg0.toNat ∧
    t = { s with outLo := t.outLo, outHi := t.outHi, lastErr := .none, inflight := none }

/-- 40_mixer.md R73, R79: MIXP.A1 likewise with the single-fold word. -/
def Obligations.MixpA1GivesSingleFold : Prop :=
  ∀ s : State, ∃ t, exec .mixpA1 s = .next t ∧
    (t.outHi.toNat, t.outLo.toNat) = Reference.mixA1 s.operands.arg0.toNat ∧
    t = { s with outLo := t.outLo, outHi := t.outHi, lastErr := .none, inflight := none }

/-- 40_mixer.md R74, R80: MIXP.B likewise, OUT_LO equal to OUT_HI. -/
def Obligations.MixpBGivesXorshiftMultiply : Prop :=
  ∀ s : State, ∃ t, exec .mixpB s = .next t ∧
    (t.outHi.toNat, t.outLo.toNat) = Reference.mixB s.operands.arg0.toNat ∧ t.outLo = t.outHi ∧
    t = { s with outLo := t.outLo, outHi := t.outHi, lastErr := .none, inflight := none }

/-- 40_mixer.md R76: `k` steps of A2 and A1 add `k * C1` modulo 2^64; the step of B is a bijection. -/
def Obligations.StateSequencesOfTheMixer : Prop :=
  (∀ (s : Word) (n : Nat), (streamState .a2 s n).toNat = (s.toNat + n * 0x60bee2bee120fc15) % 2 ^ 64 ∧
    (streamState .a1 s n).toNat = (s.toNat + n * 0x60bee2bee120fc15) % 2 ^ 64) ∧
  Function.Bijective (fun s : Word => (mix .b s).1)

/-- 40_mixer.md R77: the states that give 0, and no strategy maps state 0 to a word or state of 0. -/
def Obligations.DegenerateStatesOfTheMixer : Prop :=
  mix .a2 0x9f411d411edf03eb#64 = (0#64, 0#64) ∧ mix .a1 0x9f411d411edf03eb#64 = (0#64, 0#64) ∧
  mix .b 0x61c8864e7a143579#64 = (0#64, 0#64) ∧
  ∀ k, (mix k 0#64).1 ≠ 0#64 ∧ (mix k 0#64).2 ≠ 0#64

/-! ## Engine -/

/-- 41_engine.md R81, R87: SEED completes; STATE takes the seed, or DEFAULT_SEED for a zero seed; in buffered mode
CURSOR becomes 8N; BUF, OUT and everything else stand. -/
def Obligations.SeedSetsStateAndExhaustsBuffer : Prop :=
  ∀ s : State, s.cfg.wf = true → ∃ t, exec .seed s = .next t ∧
    t.engState = (if s.operands.arg0 = 0#64 then s.cfg.defaultSeed else s.operands.arg0) ∧
    t.cursor.toNat = (if s.cfg.engUnroll > 1 then 8 * s.cfg.engUnroll else s.cursor.toNat) ∧
    t = { s with engState := t.engState, cursor := t.cursor, lastErr := .none, inflight := none }

/-- 41_engine.md R83, R88 to R92: unbuffered, DRAW.B, DRAW.H, DRAW.W and DRAW.D complete with one engine step and the
low-order bytes of its word, DRAW.Q with two engine steps, the first word least significant; BUF and CURSOR stand. -/
def Obligations.UnbufferedDraws : Prop :=
  ∀ s : State, s.cfg.engUnroll ≤ 1 →
    (∀ p ∈ [(Instr.drawB, 1), (Instr.drawH, 2), (Instr.drawW, 4), (Instr.drawD, 8)],
      ∃ t, exec p.1 s = .next t ∧
        t.engState.toNat = (Reference.mix s.cfg.engStrat s.engState.toNat).1 ∧
        Reference.out t = (Reference.mix s.cfg.engStrat s.engState.toNat).2 % 2 ^ (8 * p.2) ∧
        t = { s with engState := t.engState, outLo := t.outLo, outHi := t.outHi, lastErr := .none, inflight := none }) ∧
    ∃ t, exec .drawQ s = .next t ∧
      t.engState.toNat = stateAfter s.cfg.engStrat s.engState.toNat 2 ∧
      t.outLo.toNat = wordAfter s.cfg.engStrat s.engState.toNat 0 ∧
      t.outHi.toNat = wordAfter s.cfg.engStrat s.engState.toNat 1 ∧
      t = { s with engState := t.engState, outLo := t.outLo, outHi := t.outHi, lastErr := .none, inflight := none }

/-- 41_engine.md R84, R88 to R92: buffered, a DRAW that fits before the buffer's end completes with the bytes at CURSOR,
little-endian, and advances CURSOR, STATE and BUF standing; a DRAW that would cross the end first refills BUF by N
engine steps and then serves its bytes from the start of the fresh buffer. -/
def Obligations.BufferedDraws : Prop :=
  ∀ s : State, s.cfg.wf = true → 1 < s.cfg.engUnroll →
    ∀ p ∈ [(Instr.drawB, 1), (Instr.drawH, 2), (Instr.drawW, 4), (Instr.drawD, 8), (Instr.drawQ, 16)],
      (s.cursor.toNat + p.2 ≤ 8 * s.cfg.engUnroll →
        ∃ t, exec p.1 s = .next t ∧
          (∀ j, j < p.2 → byteAt (Reference.out t) j = Reference.bufByte s.buf (s.cursor.toNat + j)) ∧
          Reference.out t < 2 ^ (8 * p.2) ∧ t.cursor.toNat = s.cursor.toNat + p.2 ∧
          t = { s with cursor := t.cursor, outLo := t.outLo, outHi := t.outHi, lastErr := .none, inflight := none }) ∧
      (8 * s.cfg.engUnroll < s.cursor.toNat + p.2 →
        ∃ t, exec p.1 s = .next t ∧
          t.buf.length = s.cfg.engUnroll ∧
          (∀ n, n < s.cfg.engUnroll →
            (t.buf.getD n 0#64).toNat = wordAfter s.cfg.engStrat s.engState.toNat n) ∧
          t.engState.toNat = stateAfter s.cfg.engStrat s.engState.toNat s.cfg.engUnroll ∧
          (∀ j, j < p.2 → byteAt (Reference.out t) j = Reference.bufByte t.buf j) ∧
          Reference.out t < 2 ^ (8 * p.2) ∧ t.cursor.toNat = p.2 ∧
          t = { s with engState := t.engState, buf := t.buf, cursor := t.cursor, outLo := t.outLo, outHi := t.outHi,
                       lastErr := .none, inflight := none })

/-- 41_engine.md R86 (1): after SEED, draws of 8 bytes give the same values in the same order in buffered and in
unbuffered mode, for every buffer size: the stream of the seed. -/
def Obligations.EightByteDrawsDoNotDependOnBuffering : Prop :=
  ∀ (s s' t t' : State) (m : Nat), s.cfg.wf = true → s'.cfg.wf = true → s.cfg.engStrat = s'.cfg.engStrat →
    substSeed s.cfg s.operands.arg0 = substSeed s'.cfg s'.operands.arg0 →
    exec .seed s = .next t → exec .seed s' = .next t' →
    Reference.drawsD m t = Reference.drawsD m t' ∧
    Reference.drawsD m t =
      some ((List.range m).map (streamWord s.cfg.engStrat (substSeed s.cfg s.operands.arg0)))

/-! ## Conversion -/

/-- 00_scope.md R18: the model's rounding is round to nearest, ties to even, for both formats and every value up to the
largest finite number. The encodings and the subnormal numbers of the two formats are presumed (log entry 25). -/
def Obligations.RoundingIsNearestTiesToEven : Prop :=
  ∀ f, (f = binary64 ∨ f = binary32) → ∀ (m : Nat) (e : Int),
    (m : ℚ) * 2 ^ e ≤ floatValue f.prec f.expBits (infEncoding f - 1) →
    NearestEven f.prec f.expBits ((m : ℚ) * 2 ^ e) (roundNearest f m e)

/-- 42_convert.md R93: under DOC the constants are the reciprocals of 2^53 - 1 and 2^21 - 1 rounded to nearest, the
latter also when it is rounded to binary64 first, and under both modes they have the tabulated exact values and
encodings. -/
def Obligations.ScaleConstantsAreTheRoundedReciprocals : Prop :=
  NearestEven 53 11 (1 / (2 ^ 53 - 1)) (Machine.scale64 .doc) ∧
  NearestEven 24 8 (1 / (2 ^ 21 - 1)) (Machine.scale32 .doc) ∧
  (∃ x, NearestEven 53 11 (1 / (2 ^ 21 - 1)) x ∧ NearestEven 24 8 (floatValue 53 11 x) (Machine.scale32 .doc)) ∧
  (∀ m, floatValue 53 11 (Machine.scale64 m) = Reference.scale64 m) ∧
  (∀ m, floatValue 24 8 (Machine.scale32 m) = Reference.scale32 m) ∧
  Machine.scale64 .doc = 0x3CA0000000000001 ∧ Machine.scale32 .doc = 0x35000004 ∧
  Machine.scale64 .pow2 = 0x3CA0000000000000 ∧ Machine.scale32 .pow2 = 0x35000000

/-- 42_convert.md R95: the integer-to-float stage is exact. -/
def Obligations.IntegerToFloatIsExact : Prop :=
  (∀ x, x < 2 ^ 53 → floatValue 53 11 (ofInteger binary64 x) = x) ∧
  (∀ x, x < 2 ^ 24 → floatValue 24 8 (ofInteger binary32 x) = x)

/-- 42_convert.md R94, R96, R97, R103: CVT.D completes; OUT_LO is `(ARG0 >> 11) * S64` rounded once to binary64, OUT_HI
is 0. -/
def Obligations.CvtDRoundsOnce : Prop :=
  ∀ s : State, ∃ t, exec .cvtD s = .next t ∧
    NearestEven 53 11 ((s.operands.arg0.toNat / 2 ^ 11 : Nat) * Reference.scale64 s.cfg.scaleMode) t.outLo.toNat ∧
    t = { s with outLo := t.outLo, outHi := 0#64, lastErr := .none, inflight := none }

/-- 42_convert.md R94, R96, R98, R104: CVT.S completes; OUT_LO is the binary32 of ARG0[31:0], zero-extended. -/
def Obligations.CvtSConvertsTheLowHalf : Prop :=
  ∀ s : State, ∃ t, exec .cvtS s = .next t ∧
    ConvertsHalf s.cfg.scaleMode (s.operands.arg0.toNat % 2 ^ 32) t.outLo.toNat ∧
    t = { s with outLo := t.outLo, outHi := 0#64, lastErr := .none, inflight := none }

/-- 42_convert.md R98, R105: CVT.S2 completes; the low half's binary32 is in bits [31:0], the high half's above it. -/
def Obligations.CvtS2ConvertsBothHalves : Prop :=
  ∀ s : State, ∃ t, exec .cvtS2 s = .next t ∧
    ConvertsHalf s.cfg.scaleMode (s.operands.arg0.toNat % 2 ^ 32) (t.outLo.toNat % 2 ^ 32) ∧
    ConvertsHalf s.cfg.scaleMode (s.operands.arg0.toNat / 2 ^ 32) (t.outLo.toNat / 2 ^ 32) ∧
    t = { s with outLo := t.outLo, outHi := 0#64, lastErr := .none, inflight := none }

/-- 42_convert.md R99, R106: CVT.SFIX completes; OUT_LO is `(ARG0 >> 43) * S32` rounded once to binary32,
that is the conversion of ARG0's high half. -/
def Obligations.CvtSfixConvertsTheTopBits : Prop :=
  ∀ s : State, ∃ t, exec .cvtSfix s = .next t ∧
    NearestEven 24 8 ((s.operands.arg0.toNat / 2 ^ 43 : Nat) * Reference.scale32 s.cfg.scaleMode) t.outLo.toNat ∧
    ConvertsHalf s.cfg.scaleMode (s.operands.arg0.toNat / 2 ^ 32) t.outLo.toNat ∧
    t = { s with outLo := t.outLo, outHi := 0#64, lastErr := .none, inflight := none }

/-- 42_convert.md R100: under DOC exactly the listed inputs give 1.0 and every other gives less, the largest value below
1.0 being at the listed input; under POW2 every result is exact and below 1.0; every function is non-decreasing. -/
def Obligations.RangeOfTheConversions : Prop :=
  (∀ w : Word, (cvt64 .doc w = 0x3FF0000000000000#64 ↔ 0xFFFFFFFFFFFFF000 ≤ w.toNat) ∧
    (w.toNat < 0xFFFFFFFFFFFFF000 → (cvt64 .doc w).toNat ≤ 0x3FEFFFFFFFFFFFFF) ∧
    (w.toNat / 2 ^ 11 = 2 ^ 53 - 3 → cvt64 .doc w = 0x3FEFFFFFFFFFFFFF#64)) ∧
  (∀ h : Half, (cvt32 .doc h = 0x3F800000#32 ↔ 0xFFFFF800 ≤ h.toNat) ∧
    (h.toNat < 0xFFFFF800 → (cvt32 .doc h).toNat ≤ 0x3F7FFFF8) ∧
    (h.toNat / 2 ^ 11 = 2 ^ 21 - 2 → cvt32 .doc h = 0x3F7FFFF8#32)) ∧
  (∀ w : Word, cvtfix .doc w = 0x3F800000#32 ↔ 0xFFFFF80000000000 ≤ w.toNat) ∧
  (∀ w : Word, floatValue 53 11 (cvt64 .pow2 w).toNat = (w.toNat / 2 ^ 11 : Nat) * (1 / 2 ^ 53) ∧
    (cvt64 .pow2 w).toNat ≤ 0x3FEFFFFFFFFFFFFF) ∧
  (∀ h : Half, floatValue 24 8 (cvt32 .pow2 h).toNat = (h.toNat / 2 ^ 11 : Nat) * (1 / 2 ^ 21) ∧
    (cvt32 .pow2 h).toNat ≤ 0x3F7FFFF8) ∧
  (∀ (m : ScaleMode) (w w' : Word), w.toNat ≤ w'.toNat → (cvt64 m w).toNat ≤ (cvt64 m w').toNat) ∧
  (∀ (m : ScaleMode) (h h' : Half), h.toNat ≤ h'.toNat → (cvt32 m h).toNat ≤ (cvt32 m h').toNat) ∧
  (∀ (m : ScaleMode) (w w' : Word), w.toNat ≤ w'.toNat → (cvtfix m w).toNat ≤ (cvtfix m w').toNat)

/-- 42_convert.md R101: the result is +0.0 exactly when the retained integer is 0, and otherwise lies between the scale
constant, which is attained at the least such input, and 1.0: never a NaN, an infinity, a negative or a subnormal
number. -/
def Obligations.ConversionsAvoidSpecialValues : Prop :=
  ∀ m : ScaleMode,
    (∀ w : Word, (cvt64 m w = 0#64 ↔ w.toNat < 0x800) ∧
      (0x800 ≤ w.toNat → Machine.scale64 m ≤ (cvt64 m w).toNat ∧ (cvt64 m w).toNat ≤ 0x3FF0000000000000)) ∧
    (∀ h : Half, (cvt32 m h = 0#32 ↔ h.toNat < 0x800) ∧
      (0x800 ≤ h.toNat → Machine.scale32 m ≤ (cvt32 m h).toNat ∧ (cvt32 m h).toNat ≤ 0x3F800000)) ∧
    (∀ w : Word, (cvtfix m w = 0#32 ↔ w.toNat < 2 ^ 43) ∧
      (2 ^ 43 ≤ w.toNat → Machine.scale32 m ≤ (cvtfix m w).toNat ∧ (cvtfix m w).toNat ≤ 0x3F800000)) ∧
    (cvt64 m 0x800#64).toNat = Machine.scale64 m ∧ (cvt32 m 0x800#32).toNat = Machine.scale32 m ∧
    (cvtfix m 0x80000000000#64).toNat = Machine.scale32 m

/-! ## Fill -/

/-- 43_fill.md R108, R110, R112, R120 to R122: FILL.D.A2, FILL.D.A1 and FILL.D.B. -/
def Obligations.FillDWritesItsElements : Prop :=
  FillWritesElements .fillDA2 .d .a2 ∧ FillWritesElements .fillDA1 .d .a1 ∧ FillWritesElements .fillDB .d .b

/-- 43_fill.md R108, R110, R112, R123 to R125: FILL.S.A2, FILL.S.A1 and FILL.S.B. -/
def Obligations.FillSWritesItsElements : Prop :=
  FillWritesElements .fillSA2 .s .a2 ∧ FillWritesElements .fillSA1 .s .a1 ∧ FillWritesElements .fillSB .s .b

/-- 43_fill.md R109, R110: the raw word stream of a FILL starts at the substituted seed and takes one mixing step per
word; the element values of the three cases in terms of it. -/
def Obligations.ElementsFollowTheWordStream : Prop :=
  ∀ (c : Config) (b : ElemSize) (k : Strategy) (o : Operands) (q : Nat),
    let j := fillJob c b k o
    (streamState k j.seed 0 = (if o.fseed = 0#64 then c.defaultSeed else o.fseed)) ∧
    ((streamState k j.seed (q + 1)).toNat, (streamWord k j.seed q).toNat) =
      Reference.mix k (streamState k j.seed q).toNat ∧
    (b = .d → fillElem j q = cvt64 c.scaleMode (streamWord k j.seed q)) ∧
    (b = .s → o.fdst.toNat % 8 = 0 →
      (fillElem j (2 * q)).toNat = (cvt32 c.scaleMode (lo32 (streamWord k j.seed q))).toNat ∧
      (fillElem j (2 * q + 1)).toNat = (cvt32 c.scaleMode (hi32 (streamWord k j.seed q))).toNat) ∧
    (b = .s → o.fdst.toNat % 8 = 4 →
      (fillElem j 0).toNat = (cvtfix c.scaleMode (streamWord k j.seed 0)).toNat ∧
      (fillElem j (1 + 2 * q)).toNat = (cvt32 c.scaleMode (lo32 (streamWord k j.seed (q + 1)))).toNat ∧
      (fillElem j (2 + 2 * q)).toNat = (cvt32 c.scaleMode (hi32 (streamWord k j.seed (q + 1)))).toNat)

/-- 43_fill.md R113: a FILL.S at an address 4 modulo 8 writes the elements of the aligned FILL.S with the first one
dropped. -/
def Obligations.MisalignedFillDropsTheFirstElement : Prop :=
  ∀ (k : Strategy) (seed : Word) (m : ScaleMode) (a a' n i : Nat), a % 8 = 4 → a' % 8 = 0 → i < n →
    fillElem ⟨.s, k, a, n, seed, m⟩ i = fillElem ⟨.s, k, a', n + 1, seed, m⟩ (i + 1)

/-- 43_fill.md R114: under POW2 every element is below 1.0; under DOC it is at most 1.0, and 1.0 exactly where the raw
word or half that the element is made from is among those that 42_convert.md R100 lists. -/
def Obligations.ElementsLieInTheUnitInterval : Prop :=
  ∀ (j : FillJob) (i : Nat),
    (j.size = .d → (fillElem j i).toNat ≤ 0x3FF0000000000000 ∧
      (j.scale = .pow2 → (fillElem j i).toNat < 0x3FF0000000000000) ∧
      (j.scale = .doc → (fillElem j i = 0x3FF0000000000000#64 ↔
        0xFFFFFFFFFFFFF000 ≤ (streamWord j.strat j.seed i).toNat))) ∧
    (j.size = .s → (fillElem j i).toNat ≤ 0x3F800000 ∧
      (j.scale = .pow2 → (fillElem j i).toNat < 0x3F800000) ∧
      (j.scale = .doc → (fillElem j i = 0x3F800000#64 ↔ 0xFFFFF800 ≤ Reference.halfOf j i)))

/-- 43_fill.md R108: the six FILL commands with FCOUNT = 0. -/
def Obligations.EmptyFillIsNoop : Prop :=
  FillOfNoneIsNoop .fillDA2 ∧ FillOfNoneIsNoop .fillDA1 ∧ FillOfNoneIsNoop .fillDB ∧
  FillOfNoneIsNoop .fillSA2 ∧ FillOfNoneIsNoop .fillSA1 ∧ FillOfNoneIsNoop .fillSB

/-- 43_fill.md R108, 60_exceptions.md R128: performing one of the six FILL commands with operands that fail validation is
its rejection. The spec rejects at submission (InvalidFillIsRejectedAtSubmission says that); that `exec` validates again,
for a record in flight that no accepted FILL is and on an idle block, is the model's choice (log entries 20 and 3). -/
def Obligations.FillRejectsBadDestinations : Prop :=
  FillRejects .fillDA2 .d ∧ FillRejects .fillDA1 .d ∧ FillRejects .fillDB .d ∧
  FillRejects .fillSA2 .s ∧ FillRejects .fillSA1 .s ∧ FillRejects .fillSB .s

/-- 60_exceptions.md R133: the six FILL commands when the platform refuses a write. -/
def Obligations.RefusedWriteEndsFillWithBus : Prop :=
  FillEndsWithBus .fillDA2 .d .a2 ∧ FillEndsWithBus .fillDA1 .d .a1 ∧ FillEndsWithBus .fillDB .d .b ∧
  FillEndsWithBus .fillSA2 .s .a2 ∧ FillEndsWithBus .fillSA1 .s .a1 ∧ FillEndsWithBus .fillSB .s .b

/-- 20_memory.md R53: the six FILL commands aimed at a device region. -/
def Obligations.DeviceTargetIsRefused : Prop :=
  FillRefusesDevice .fillDA2 .d ∧ FillRefusesDevice .fillDA1 .d ∧ FillRefusesDevice .fillDB .d ∧
  FillRefusesDevice .fillSA2 .s ∧ FillRefusesDevice .fillSA1 .s ∧ FillRefusesDevice .fillSB .s

/-- 10_state.md R26, R32, 43_fill.md R107: a FILL neither reads nor writes STATE, BUF, CURSOR or OUT: changing them
changes nothing else of its outcome. -/
def Obligations.FillIsIndependentOfTheEngine : Prop :=
  ∀ (i : Instr) (b : ElemSize) (k : Strategy) (s t : State) (st lo hi : Word) (cur : BitVec 10) (bf : List Word),
    fillForm i = some (b, k) → exec i s = .next t →
    t.engState = s.engState ∧ t.cursor = s.cursor ∧ t.buf = s.buf ∧ t.outLo = s.outLo ∧ t.outHi = s.outHi ∧
    exec i { s with engState := st, cursor := cur, buf := bf, outLo := lo, outHi := hi } =
      .next { t with engState := st, cursor := cur, buf := bf, outLo := lo, outHi := hi }

/-- 43_fill.md R115, R116, R117: in every well-formed configuration the four tiers, vector path included, give the
elements of R110, whatever the size of the tail's buffer from FILL_UNROLL words on (log entry 24); so no two configurations differ in them. -/
def Obligations.DatapathScheduleGivesTheElements : Prop :=
  ∀ (c c' : Config) (j : FillJob) (tail tail' : Nat), c.wf = true → c'.wf = true → c.fillUnroll ≤ tail →
    c'.fillUnroll ≤ tail' →
    (datapathFill c j tail).1 = (List.range j.count).map (fillElem j) ∧
    (datapathFill c j tail).1 = (datapathFill c' j tail').1

/-- 43_fill.md R112, 20_memory.md R52, 10_state.md R32: the fill writer's turn for an element still to be written, whose
write is not refused, writes exactly that element, whole, advances FSTATE past the element's word if it stood before it,
and changes nothing else of the block or of memory. -/
def Obligations.WriterTurnWritesOneElement : Prop :=
  ∀ (s : State) (rest : List Event) (r : InFlight) (i : Instr) (b : ElemSize) (k : Strategy) (e : Nat),
    s.cfg.wf = true → s.mem.wf = true → s.events = .writerTurn e :: rest → s.inflight = some r →
    decode r.word = .ok i → fillForm i = some (b, k) → FillAccepted s.cfg b r.ops → NoDeviceTarget s b →
    ¬ RefusedElement s b e → e < r.ops.fcount.toNat → e ∉ r.written →
    ∃ t, step s = .next t ∧ ElemNew s.cfg b k r.ops t.mem e ∧
      (∀ x, x < r.ops.fdst.toNat + e * elemBytes b ∨ r.ops.fdst.toNat + (e + 1) * elemBytes b ≤ x →
        t.mem.read x = s.mem.read x) ∧
      (∀ seed : Nat, s.fstate.toNat = stateAfter k seed r.mixed →
        t.fstate.toNat = stateAfter k seed (max r.mixed (wordOf b r.ops.fdst.toNat e + 1))) ∧
      t = { popped s rest with
            mem := t.mem
            fstate := t.fstate
            inflight := some { r with
              written := e :: r.written
              mixed := max r.mixed (wordOf b r.ops.fdst.toNat e + 1) } }

/-- 60_exceptions.md R133: the fill writer's turn for an element still to be written, whose write the platform refuses,
ends the FILL with BUS: each element old or new, whole, and no register but STATUS (and FSTATE) changed. That the
FILL ends in that very turn is the model's choice (log entry 26). -/
def Obligations.RefusedWriterTurnEndsFillWithBus : Prop :=
  ∀ (s : State) (rest : List Event) (r : InFlight) (i : Instr) (b : ElemSize) (k : Strategy) (e : Nat),
    s.cfg.wf = true → s.mem.wf = true → s.events = .writerTurn e :: rest → s.inflight = some r →
    decode r.word = .ok i → fillForm i = some (b, k) → FillAccepted s.cfg b r.ops → NoDeviceTarget s b →
    RefusedElement s b e → e < r.ops.fcount.toNat → e ∉ r.written →
    ∃ t, step s = .next t ∧
      (∀ x, x < r.ops.fcount.toNat → ElemOld b r.ops s.mem t.mem x ∨ ElemNew s.cfg b k r.ops t.mem x) ∧
      SameOutside b r.ops s.mem t.mem ∧ t.mem.wf = true ∧
      t = { popped s rest with
            mem := t.mem, fstate := t.fstate, draws := t.draws, lastErr := .bus, errs := true, inflight := none }

/-- 10_state.md R32, 43_fill.md R109, R118: a mixing step of a FILL in flight with n > 0 advances FSTATE by one step of
the FILL's strategy and touches nothing else of the block, STATE, BUF and CURSOR included; a FILL with n = 0, another
command and an idle block take none. That mixing steps are turns of the script is the model's choice (log entry 7). -/
def Obligations.MixingTurnAdvancesFstate : Prop :=
  ∀ (s : State) (rest : List Event), s.cfg.wf = true → s.events = .mixTurn :: rest →
    (∀ r i b k, s.inflight = some r → decode r.word = .ok i → fillForm i = some (b, k) → FillAccepted s.cfg b r.ops →
      ∃ t, step s = .next t ∧ t.fstate.toNat = (Reference.mix k s.fstate.toNat).1 ∧
        t = { popped s rest with fstate := t.fstate, inflight := some { r with mixed := r.mixed + 1 } }) ∧
    ((s.inflight = none ∨
        ∃ r i, s.inflight = some r ∧ decode r.word = .ok i ∧ (fillForm i = none ∨ r.ops.fcount = 0#64)) →
      step s = .next (popped s rest))

/-- 43_fill.md R112, 20_memory.md R56 (3): the element writes may be performed in any order: after any turns of the fill
writer and any mixing steps, in any order, the completed FILL leaves the very state that it leaves with none of them. -/
def Obligations.AnyOrderOfElementWritesGivesTheSameState : Prop :=
  ∀ (s : State) (r : InFlight) (i : Instr) (b : ElemSize) (k : Strategy) (turns rest : List Event),
    s.cfg.wf = true → s.mem.wf = true → s.inflight = some r → decode r.word = .ok i → fillForm i = some (b, k) →
    FillAccepted s.cfg b r.ops → WritableTarget s b →
    (∀ e ∈ turns, e = .mixTurn ∨ ∃ x, e = .writerTurn x) → s.events = turns ++ .unitTurn :: rest →
    ∃ t : State, exec i (popped s rest) = .next t ∧ Host.Core.run Sys2Proof.core (turns.length + 1) s = .next t
end

