-- ==== Sys2Proof/Laws/Arith.lean ====
section
/-! SUPPORT. What the arithmetic of 00_scope.md R17 and the shared conversion stages compute, over natural numbers, for
operands of any value: proofs cite these and do not unfold a product with a literal factor. -/

namespace Sys2Proof.Machine

/-! The constants of 00_scope.md R21 as numbers, so that no proof unfolds them. -/

@[simp] theorem toNat_mixC1 : mixC1.toNat = 0x60bee2bee120fc15 := rfl
@[simp] theorem toNat_mixC2 : mixC2.toNat = 0xa3b195354a39b70d := rfl
@[simp] theorem toNat_mixC3 : mixC3.toNat = 0x1b03738712fad5c9 := rfl
@[simp] theorem toNat_mixC4 : mixC4.toNat = 0xe7037ed1a0b428db := rfl
@[simp] theorem toNat_mixPrime1 : mixPrime1.toNat = 11400714785074694791 := rfl
@[simp] theorem toNat_mixPrime3 : mixPrime3.toNat = 1609587929392839161 := rfl

/-- The exact product. -/
theorem toNat_mul128 (a b : Word) : (mul128 a b).toNat = a.toNat * b.toNat := by
  have ha := a.isLt
  have hb := b.isLt
  have hp : a.toNat * b.toNat < 2 ^ 128 := Nat.lt_of_lt_of_le (Nat.mul_lt_mul'' ha hb) (by decide)
  unfold mul128
  rw [BitVec.toNat_mul, BitVec.toNat_setWidth, BitVec.toNat_setWidth,
    Nat.mod_eq_of_lt (Nat.lt_trans ha (by decide)), Nat.mod_eq_of_lt (Nat.lt_trans hb (by decide)), Nat.mod_eq_of_lt hp]

/-- The high word of the exact product. -/
theorem toNat_hi64_mul128 (a b : Word) : (hi64 (mul128 a b)).toNat = a.toNat * b.toNat / 2 ^ 64 := by
  have hq : a.toNat * b.toNat / 2 ^ 64 < 2 ^ 64 := Nat.div_lt_of_lt_mul (Nat.mul_lt_mul'' a.isLt b.isLt)
  unfold hi64
  rw [BitVec.extractLsb'_toNat, toNat_mul128, Nat.shiftRight_eq_div_pow, Nat.mod_eq_of_lt hq]

/-- The low word of the exact product. -/
theorem toNat_lo64_mul128 (a b : Word) : (lo64 (mul128 a b)).toNat = a.toNat * b.toNat % 2 ^ 64 := by
  unfold lo64
  rw [BitVec.extractLsb'_toNat, toNat_mul128, Nat.shiftRight_zero]

/-- The folding of a product, high word with low word. -/
theorem toNat_fold (a b : Word) : (hi64 (mul128 a b) ^^^ lo64 (mul128 a b)).toNat =
    (a.toNat * b.toNat / 2 ^ 64) ^^^ (a.toNat * b.toNat % 2 ^ 64) := by
  rw [BitVec.toNat_xor, toNat_hi64_mul128, toNat_lo64_mul128]

/-- The low 64 bits of the product. -/
theorem toNat_mul64 (a b : Word) : (mul64 a b).toNat = a.toNat * b.toNat % 2 ^ 64 := toNat_lo64_mul128 a b

/-- The halves of a pair of words. -/
theorem lo64_concat64 (a b : Word) : lo64 (concat64 a b) = b := by
  unfold lo64 concat64
  apply BitVec.eq_of_getLsbD_eq
  intro i hi
  simp [BitVec.getLsbD_shiftLeft, BitVec.getLsbD_setWidth, hi]
  omega

theorem hi64_concat64 (a b : Word) : hi64 (concat64 a b) = a := by
  unfold hi64 concat64
  apply BitVec.eq_of_getLsbD_eq
  intro i hi
  have h1 : 64 + i < 128 := by omega
  have h2 : i < 128 := by omega
  simp [hi, h1]

/-- The halves of a word, as numbers. -/
theorem toNat_lo32 (w : Word) : (lo32 w).toNat = w.toNat % 2 ^ 32 := by
  unfold lo32
  rw [BitVec.extractLsb'_toNat, Nat.shiftRight_zero]

theorem toNat_hi32 (w : Word) : (hi32 w).toNat = w.toNat / 2 ^ 32 := by
  have h := w.isLt
  unfold hi32
  rw [BitVec.extractLsb'_toNat, Nat.shiftRight_eq_div_pow, Nat.mod_eq_of_lt (by omega)]

/-- The fix-up value is the conversion of the high half (42_convert.md R99). -/
theorem cvtfix_eq_cvt32_hi32 (m : ScaleMode) (w : Word) : cvtfix m w = cvt32 m (hi32 w) := by
  have h : (w >>> 43).toNat = (hi32 w >>> 11).toNat := by
    rw [BitVec.toNat_ushiftRight, BitVec.toNat_ushiftRight, toNat_hi32, Nat.shiftRight_eq_div_pow,
      Nat.shiftRight_eq_div_pow, Nat.div_div_eq_div_mul, ← Nat.pow_add]
  unfold cvtfix cvt32
  rw [h]

end Sys2Proof.Machine
end

