-- ==== Sys2Proof/Laws/Memory.lean ====
section
/-! SUPPORT. The laws of destination memory: reading after writing, the canonical form every operation keeps, and that
two memories in canonical form that read alike are equal. -/

namespace Sys2Proof.Machine

@[simp] theorem Memory.unlisted_eq : Memory.unlisted = 0#8 := rfl

theorem Memory.risesAbove_mono {m : Memory} {lo lo' : Nat} (h : lo' ≤ lo) (hm : m.risesAbove lo = true) :
    m.risesAbove lo' = true := by
  cases m with
  | nil => rfl
  | cons c rest =>
    obtain ⟨k, b⟩ := c
    simp only [Memory.risesAbove, Bool.and_eq_true, decide_eq_true_eq] at hm ⊢
    exact ⟨⟨by omega, hm.1.2⟩, hm.2⟩

theorem Memory.wf_of_risesAbove {m : Memory} {lo : Nat} (hm : m.risesAbove lo = true) : m.wf = true := by
  cases m with
  | nil => rfl
  | cons c rest =>
    obtain ⟨k, b⟩ := c
    simp only [Memory.risesAbove, Memory.wf, Bool.and_eq_true, decide_eq_true_eq] at hm ⊢
    exact ⟨hm.1.2, hm.2⟩

theorem Memory.read_of_risesAbove {m : Memory} {lo a : Nat} (hm : m.risesAbove lo = true) (ha : a ≤ lo) :
    m.read a = 0#8 := by
  induction m generalizing lo with
  | nil => rfl
  | cons c rest ih =>
    obtain ⟨k, b⟩ := c
    simp only [Memory.risesAbove, Bool.and_eq_true, decide_eq_true_eq] at hm
    have hk : k ≠ a := by omega
    simp only [Memory.read, hk, if_false]
    exact ih hm.2 (by omega)

theorem Memory.read_write_other (m : Memory) {a b : Nat} (v : Byte) (h : b ≠ a) :
    (m.write a v).read b = m.read b := by
  induction m with
  | nil =>
    simp only [Memory.write]
    split
    · rfl
    · simp [Memory.read, Ne.symm h]
  | cons c rest ih =>
    obtain ⟨k, x⟩ := c
    simp only [Memory.write]
    split
    · split
      · rfl
      · simp [Memory.read, Ne.symm h]
    · split
      · next hak =>
        subst hak
        split <;> simp [Memory.read, Ne.symm h]
      · simp only [Memory.read, ih]

theorem Memory.write_risesAbove {m : Memory} {lo a : Nat} (v : Byte) (hm : m.risesAbove lo = true) (ha : lo < a) :
    (m.write a v).risesAbove lo = true := by
  induction m generalizing lo with
  | nil =>
    simp only [Memory.write]
    split
    · rfl
    · next hv =>
      simp only [Memory.risesAbove, Bool.and_eq_true, decide_eq_true_eq]
      exact ⟨⟨ha, hv⟩, trivial⟩
  | cons c rest ih =>
    obtain ⟨k, x⟩ := c
    simp only [Memory.risesAbove, Bool.and_eq_true, decide_eq_true_eq] at hm
    simp only [Memory.write]
    split
    · next hak =>
      split
      · simp only [Memory.risesAbove, Bool.and_eq_true, decide_eq_true_eq]
        exact hm
      · next hv =>
        simp only [Memory.risesAbove, Bool.and_eq_true, decide_eq_true_eq]
        exact ⟨⟨ha, hv⟩, ⟨hak, hm.1.2⟩, hm.2⟩
    · split
      · next hak =>
        subst hak
        split
        · exact Memory.risesAbove_mono (by omega) hm.2
        · next hv =>
          simp only [Memory.risesAbove, Bool.and_eq_true, decide_eq_true_eq]
          exact ⟨⟨ha, hv⟩, hm.2⟩
      · next h1 h2 =>
        simp only [Memory.risesAbove, Bool.and_eq_true, decide_eq_true_eq]
        exact ⟨hm.1, ih hm.2 (by omega)⟩

theorem Memory.write_wf {m : Memory} (a : Nat) (v : Byte) (hm : m.wf = true) : (m.write a v).wf = true := by
  cases m with
  | nil =>
    simp only [Memory.write]
    split
    · rfl
    · next hv =>
      simp only [Memory.wf, Bool.and_eq_true, decide_eq_true_eq]
      exact ⟨hv, rfl⟩
  | cons c rest =>
    obtain ⟨k, x⟩ := c
    simp only [Memory.wf, Bool.and_eq_true, decide_eq_true_eq] at hm
    simp only [Memory.write]
    split
    · next hak =>
      split
      · simp only [Memory.wf, Bool.and_eq_true, decide_eq_true_eq]
        exact hm
      · next hv =>
        simp only [Memory.wf, Memory.risesAbove, Bool.and_eq_true, decide_eq_true_eq]
        exact ⟨hv, ⟨hak, hm.1⟩, hm.2⟩
    · split
      · next hak =>
        subst hak
        split
        · exact Memory.wf_of_risesAbove hm.2
        · next hv =>
          simp only [Memory.wf, Bool.and_eq_true, decide_eq_true_eq]
          exact ⟨hv, hm.2⟩
      · next h1 h2 =>
        simp only [Memory.wf, Bool.and_eq_true, decide_eq_true_eq]
        exact ⟨hm.1, Memory.write_risesAbove v hm.2 (by omega)⟩

theorem Memory.read_write_same_rises {m : Memory} {lo : Nat} (a : Nat) (v : Byte) (hm : m.risesAbove lo = true) :
    (m.write a v).read a = v := by
  induction m generalizing lo with
  | nil =>
    simp only [Memory.write]
    split
    · next hv => simpa [Memory.read] using hv.symm
    · simp [Memory.read]
  | cons c rest ih =>
    obtain ⟨k, x⟩ := c
    simp only [Memory.risesAbove, Bool.and_eq_true, decide_eq_true_eq] at hm
    simp only [Memory.write]
    split
    · next hak =>
      split
      · next hv =>
        have hka : k ≠ a := by omega
        simp only [Memory.read, hka, if_false]
        rw [Memory.read_of_risesAbove hm.2 (by omega)]
        simpa using hv.symm
      · simp [Memory.read]
    · split
      · next hak =>
        subst hak
        split
        · next hv =>
          rw [Memory.read_of_risesAbove hm.2 (Nat.le_refl a)]
          simpa using hv.symm
        · simp [Memory.read]
      · next h1 h2 =>
        have hka : k ≠ a := fun h => h2 h.symm
        simp only [Memory.read, hka, if_false]
        exact ih hm.2

theorem Memory.read_write_same {m : Memory} (a : Nat) (v : Byte) (hm : m.wf = true) : (m.write a v).read a = v := by
  cases m with
  | nil => exact Memory.read_write_same_rises (lo := 0) a v rfl
  | cons c rest =>
    obtain ⟨k, x⟩ := c
    simp only [Memory.wf, Bool.and_eq_true, decide_eq_true_eq] at hm
    by_cases hk : 0 < k
    · exact Memory.read_write_same_rises (lo := 0) a v (by
        simp only [Memory.risesAbove, Bool.and_eq_true, decide_eq_true_eq]; exact ⟨⟨hk, hm.1⟩, hm.2⟩)
    · have hk0 : k = 0 := by omega
      subst hk0
      by_cases ha : a = 0
      · subst ha
        simp only [Memory.write, Nat.lt_irrefl, if_false, if_true]
        split
        · next hv =>
          rw [Memory.read_of_risesAbove hm.2 (Nat.le_refl 0)]
          simpa using hv.symm
        · simp [Memory.read]
      · have h1 : ¬ a < 0 := by omega
        simp only [Memory.write, h1, ha, if_false, Memory.read, Ne.symm ha]
        exact Memory.read_write_same_rises a v hm.2

theorem Memory.write_below {m : Memory} {w a : Nat} (v : Byte) (hm : m.below w = true) (ha : a < 2 ^ w) :
    (m.write a v).below w = true := by
  induction m with
  | nil =>
    simp only [Memory.write]
    split
    · rfl
    · simp [Memory.below, ha]
  | cons c rest ih =>
    obtain ⟨k, x⟩ := c
    simp only [Memory.below, List.all_cons, Bool.and_eq_true, decide_eq_true_eq] at hm
    have hr : Memory.below w rest = true := hm.2
    simp only [Memory.write]
    split
    · split
      · simp only [Memory.below, List.all_cons, Bool.and_eq_true, decide_eq_true_eq]
        exact hm
      · simp only [Memory.below, List.all_cons, Bool.and_eq_true, decide_eq_true_eq]
        exact ⟨ha, hm⟩
    · split
      · split
        · exact hr
        · simp only [Memory.below, List.all_cons, Bool.and_eq_true, decide_eq_true_eq]
          exact ⟨ha, hm.2⟩
      · simp only [Memory.below, List.all_cons, Bool.and_eq_true, decide_eq_true_eq]
        exact ⟨hm.1, ih hr⟩

/-- Two memories in canonical form that read alike above `lo` are equal. -/
theorem Memory.eq_of_read_rises {m m' : Memory} {lo : Nat} (hm : m.risesAbove lo = true)
    (hm' : m'.risesAbove lo = true) (h : ∀ a, m.read a = m'.read a) : m = m' := by
  induction m generalizing m' lo with
  | nil =>
    cases m' with
    | nil => rfl
    | cons c rest =>
      obtain ⟨k, x⟩ := c
      simp only [Memory.risesAbove, Bool.and_eq_true, decide_eq_true_eq] at hm'
      exact absurd (by simpa [Memory.read] using (h k).symm) hm'.1.2
  | cons c rest ih =>
    obtain ⟨k, x⟩ := c
    cases m' with
    | nil =>
      simp only [Memory.risesAbove, Bool.and_eq_true, decide_eq_true_eq] at hm
      exact absurd (by simpa [Memory.read] using h k) hm.1.2
    | cons c' rest' =>
      obtain ⟨k', x'⟩ := c'
      simp only [Memory.risesAbove, Bool.and_eq_true, decide_eq_true_eq] at hm hm'
      have hkk : k = k' := by
        rcases Nat.lt_trichotomy k k' with hlt | heq | hgt
        · have hk := h k
          simp only [Memory.read, if_true, Ne.symm (Nat.ne_of_lt hlt), if_false] at hk
          rw [Memory.read_of_risesAbove hm'.2 (by omega)] at hk
          exact absurd (by simpa using hk) hm.1.2
        · exact heq
        · have hk := h k'
          simp only [Memory.read, if_true, Ne.symm (Nat.ne_of_lt hgt), if_false] at hk
          rw [Memory.read_of_risesAbove hm.2 (by omega)] at hk
          exact absurd (by simpa using hk.symm) hm'.1.2
      subst hkk
      have hx : x = x' := by simpa [Memory.read] using h k
      subst hx
      refine congrArg _ (ih hm.2 hm'.2 fun a => ?_)
      by_cases ha : k = a
      · subst ha
        rw [Memory.read_of_risesAbove hm.2 (Nat.le_refl k), Memory.read_of_risesAbove hm'.2 (Nat.le_refl k)]
      · simpa [Memory.read, ha] using h a

/-- Equal memories are equal data: two memories in canonical form that read alike at every address are equal. -/
theorem Memory.eq_of_read {m m' : Memory} (hm : m.wf = true) (hm' : m'.wf = true) (h : ∀ a, m.read a = m'.read a) :
    m = m' := by
  cases m with
  | nil =>
    cases m' with
    | nil => rfl
    | cons c rest =>
      obtain ⟨k, x⟩ := c
      simp only [Memory.wf, Bool.and_eq_true, decide_eq_true_eq] at hm'
      exact absurd (by simpa [Memory.read] using (h k).symm) hm'.1
  | cons c rest =>
    obtain ⟨k, x⟩ := c
    cases m' with
    | nil =>
      simp only [Memory.wf, Bool.and_eq_true, decide_eq_true_eq] at hm
      exact absurd (by simpa [Memory.read] using h k) hm.1
    | cons c' rest' =>
      obtain ⟨k', x'⟩ := c'
      simp only [Memory.wf, Bool.and_eq_true, decide_eq_true_eq] at hm hm'
      have hkk : k = k' := by
        rcases Nat.lt_trichotomy k k' with hlt | heq | hgt
        · have hk := h k
          simp only [Memory.read, if_true, Ne.symm (Nat.ne_of_lt hlt), if_false] at hk
          rw [Memory.read_of_risesAbove hm'.2 (by omega)] at hk
          exact absurd (by simpa using hk) hm.1
        · exact heq
        · have hk := h k'
          simp only [Memory.read, if_true, Ne.symm (Nat.ne_of_lt hgt), if_false] at hk
          rw [Memory.read_of_risesAbove hm.2 (by omega)] at hk
          exact absurd (by simpa using hk.symm) hm'.1
      subst hkk
      have hx : x = x' := by simpa [Memory.read] using h k
      subst hx
      refine congrArg _ (Memory.eq_of_read_rises hm.2 hm'.2 fun a => ?_)
      by_cases ha : k = a
      · subst ha
        rw [Memory.read_of_risesAbove hm.2 (Nat.le_refl k), Memory.read_of_risesAbove hm'.2 (Nat.le_refl k)]
      · simpa [Memory.read, ha] using h a

/-! Wider writes. -/

theorem Memory.writeLE_wf {m : Memory} (a n : Nat) (v : Word) (hm : m.wf = true) : (m.writeLE a n v).wf = true := by
  induction n with
  | zero => exact hm
  | succ k ih => exact Memory.write_wf _ _ ih

theorem Memory.writeLE_below {m : Memory} {w : Nat} (a n : Nat) (v : Word) (hm : m.below w = true)
    (ha : a + n ≤ 2 ^ w) : (m.writeLE a n v).below w = true := by
  induction n with
  | zero => exact hm
  | succ k ih => exact Memory.write_below _ (ih (by omega)) (by omega)

/-- Everything a wide write does: the `n` bytes at `a` become the value's, least significant first; every other byte
reads as before. -/
theorem Memory.read_writeLE {m : Memory} (a n : Nat) (v : Word) (hm : m.wf = true) (b : Nat) :
    (m.writeLE a n v).read b = if a ≤ b ∧ b < a + n then byteOf v (b - a) else m.read b := by
  induction n with
  | zero =>
    have h0 : ¬ (a ≤ b ∧ b < a + 0) := by omega
    rw [if_neg h0]
    rfl
  | succ k ih =>
    simp only [Memory.writeLE]
    by_cases hb : b = a + k
    · subst hb
      rw [Memory.read_write_same _ _ (Memory.writeLE_wf a k v hm)]
      simp
    · rw [Memory.read_write_other _ _ hb, ih]
      have : (a ≤ b ∧ b < a + k) ↔ (a ≤ b ∧ b < a + (k + 1)) := by omega
      simp [this]

theorem Memory.read_writeLE_outside (m : Memory) {a n b : Nat} (v : Word) (h : b < a ∨ a + n ≤ b) :
    (m.writeLE a n v).read b = m.read b := by
  induction n with
  | zero => rfl
  | succ k ih =>
    simp only [Memory.writeLE]
    rw [Memory.read_write_other _ _ (by omega), ih (by omega)]

/-! The element writes of a FILL. -/

theorem writeElems_wf (j : FillJob) (p : Nat → Bool) (n : Nat) {m : Memory} (hm : m.wf = true) :
    (writeElems j p n m).wf = true := by
  induction n with
  | zero => exact hm
  | succ i ih =>
    simp only [writeElems]
    split
    · exact Memory.writeLE_wf _ _ _ ih
    · exact ih

theorem writeElems_below (j : FillJob) (p : Nat → Bool) (n : Nat) {m : Memory} {w : Nat} (hm : m.below w = true)
    (h : j.dst + n * elemBytes j.size ≤ 2 ^ w) : (writeElems j p n m).below w = true := by
  induction n with
  | zero => exact hm
  | succ i ih =>
    have hi : j.dst + i * elemBytes j.size + elemBytes j.size ≤ 2 ^ w := by rw [Nat.succ_mul] at h; omega
    simp only [writeElems]
    split
    · exact Memory.writeLE_below _ _ _ (ih (by omega)) hi
    · exact ih (by omega)

theorem elemBytes_pos (b : ElemSize) : 0 < elemBytes b := by cases b <;> decide

/-- What the element writes leave outside the destination: every byte reads as before. -/
theorem read_writeElems_outside (j : FillJob) (p : Nat → Bool) (n : Nat) (m : Memory) {a : Nat}
    (h : a < j.dst ∨ j.dst + n * elemBytes j.size ≤ a) : (writeElems j p n m).read a = m.read a := by
  induction n with
  | zero => rfl
  | succ i ih =>
    rw [Nat.succ_mul] at h
    simp only [writeElems]
    split
    · rw [writeElem, elemAddr, Memory.read_writeLE_outside _ _ (by omega), ih (by omega)]
    · exact ih (by omega)

/-- What the element writes leave inside: byte `q` of element `i` is that of E(i) if `p` selects `i`, else as before
(43_fill.md R112: no byte is written twice). -/
theorem read_writeElems_inside (j : FillJob) (p : Nat → Bool) (n : Nat) {m : Memory} (hm : m.wf = true) {i q : Nat}
    (hi : i < n) (hq : q < elemBytes j.size) :
    (writeElems j p n m).read (elemAddr j i + q) =
      if p i then byteOf (fillElem j i) q else m.read (elemAddr j i + q) := by
  induction n with
  | zero => omega
  | succ k ih =>
    simp only [writeElems]
    by_cases hik : i = k
    · subst hik
      have hout : (writeElems j p i m).read (elemAddr j i + q) = m.read (elemAddr j i + q) :=
        read_writeElems_outside j p i m (.inr (by simp [elemAddr]))
      split
      · rw [writeElem, Memory.read_writeLE _ _ _ (writeElems_wf j p i hm)]
        simp [hq]
      · exact hout
    · have hlt : i < k := by omega
      have hle : (i + 1) * elemBytes j.size ≤ k * elemBytes j.size := Nat.mul_le_mul_right _ (by omega)
      rw [Nat.succ_mul] at hle
      split
      · rw [writeElem, Memory.read_writeLE_outside _ _ (.inl (by simp only [elemAddr]; omega)), ih hlt]
      · exact ih hlt

/-! The platform's map. -/

/-- A region touches an access of at least one byte exactly when some address is in both. -/
theorem Region.touches_iff (r : Region) {a len : Nat} (h : 0 < len) :
    r.touches a len = true ↔ ∃ x, (r.base ≤ x ∧ x < r.base + r.size) ∧ a ≤ x ∧ x < a + len := by
  simp only [Region.touches, decide_eq_true_eq]
  constructor
  · intro ht
    exact ⟨max r.base a, by omega, by omega⟩
  · rintro ⟨x, hx, hy⟩
    omega

/-- A region of size 0 touches nothing (log entry 27). -/
theorem Region.touches_of_size_zero {r : Region} (h : r.size = 0) (a len : Nat) : r.touches a len = false := by
  simp [Region.touches, h]

end Sys2Proof.Machine
end

