-- ==== Sys2Proof/Laws/State.lean ====
section
/-! SUPPORT. One lemma per field per update of State, by rfl or by the two cases of an in-flight record. -/

namespace Sys2Proof.Machine

@[simp] theorem State.setOut_cfg (s : State) (lo hi : Word) : (s.setOut lo hi).cfg = s.cfg := rfl
@[simp] theorem State.setOut_errs (s : State) (lo hi : Word) : (s.setOut lo hi).errs = s.errs := rfl
@[simp] theorem State.setOut_drop (s : State) (lo hi : Word) : (s.setOut lo hi).drop = s.drop := rfl
@[simp] theorem State.setOut_lastErr (s : State) (lo hi : Word) : (s.setOut lo hi).lastErr = s.lastErr := rfl
@[simp] theorem State.setOut_arg0 (s : State) (lo hi : Word) : (s.setOut lo hi).arg0 = s.arg0 := rfl
@[simp] theorem State.setOut_outLo (s : State) (lo hi : Word) : (s.setOut lo hi).outLo = lo := rfl
@[simp] theorem State.setOut_outHi (s : State) (lo hi : Word) : (s.setOut lo hi).outHi = hi := rfl
@[simp] theorem State.setOut_engState (s : State) (lo hi : Word) : (s.setOut lo hi).engState = s.engState := rfl
@[simp] theorem State.setOut_cursor (s : State) (lo hi : Word) : (s.setOut lo hi).cursor = s.cursor := rfl
@[simp] theorem State.setOut_buf (s : State) (lo hi : Word) : (s.setOut lo hi).buf = s.buf := rfl
@[simp] theorem State.setOut_fdst (s : State) (lo hi : Word) : (s.setOut lo hi).fdst = s.fdst := rfl
@[simp] theorem State.setOut_fcount (s : State) (lo hi : Word) : (s.setOut lo hi).fcount = s.fcount := rfl
@[simp] theorem State.setOut_fseed (s : State) (lo hi : Word) : (s.setOut lo hi).fseed = s.fseed := rfl
@[simp] theorem State.setOut_fstate (s : State) (lo hi : Word) : (s.setOut lo hi).fstate = s.fstate := rfl
@[simp] theorem State.setOut_inflight (s : State) (lo hi : Word) : (s.setOut lo hi).inflight = s.inflight := rfl
@[simp] theorem State.setOut_mem (s : State) (lo hi : Word) : (s.setOut lo hi).mem = s.mem := rfl
@[simp] theorem State.setOut_regions (s : State) (lo hi : Word) : (s.setOut lo hi).regions = s.regions := rfl
@[simp] theorem State.setOut_events (s : State) (lo hi : Word) : (s.setOut lo hi).events = s.events := rfl
@[simp] theorem State.setOut_replies (s : State) (lo hi : Word) : (s.setOut lo hi).replies = s.replies := rfl
@[simp] theorem State.setOut_draws (s : State) (lo hi : Word) : (s.setOut lo hi).draws = s.draws := rfl

@[simp] theorem State.setEngine_cfg (s : State) (st : Word) (cur : BitVec 10) (b : List Word) : (s.setEngine st cur b).cfg = s.cfg := rfl
@[simp] theorem State.setEngine_errs (s : State) (st : Word) (cur : BitVec 10) (b : List Word) : (s.setEngine st cur b).errs = s.errs := rfl
@[simp] theorem State.setEngine_drop (s : State) (st : Word) (cur : BitVec 10) (b : List Word) : (s.setEngine st cur b).drop = s.drop := rfl
@[simp] theorem State.setEngine_lastErr (s : State) (st : Word) (cur : BitVec 10) (b : List Word) : (s.setEngine st cur b).lastErr = s.lastErr := rfl
@[simp] theorem State.setEngine_arg0 (s : State) (st : Word) (cur : BitVec 10) (b : List Word) : (s.setEngine st cur b).arg0 = s.arg0 := rfl
@[simp] theorem State.setEngine_outLo (s : State) (st : Word) (cur : BitVec 10) (b : List Word) : (s.setEngine st cur b).outLo = s.outLo := rfl
@[simp] theorem State.setEngine_outHi (s : State) (st : Word) (cur : BitVec 10) (b : List Word) : (s.setEngine st cur b).outHi = s.outHi := rfl
@[simp] theorem State.setEngine_engState (s : State) (st : Word) (cur : BitVec 10) (b : List Word) : (s.setEngine st cur b).engState = st := rfl
@[simp] theorem State.setEngine_cursor (s : State) (st : Word) (cur : BitVec 10) (b : List Word) : (s.setEngine st cur b).cursor = cur := rfl
@[simp] theorem State.setEngine_buf (s : State) (st : Word) (cur : BitVec 10) (b : List Word) : (s.setEngine st cur b).buf = b := rfl
@[simp] theorem State.setEngine_fdst (s : State) (st : Word) (cur : BitVec 10) (b : List Word) : (s.setEngine st cur b).fdst = s.fdst := rfl
@[simp] theorem State.setEngine_fcount (s : State) (st : Word) (cur : BitVec 10) (b : List Word) : (s.setEngine st cur b).fcount = s.fcount := rfl
@[simp] theorem State.setEngine_fseed (s : State) (st : Word) (cur : BitVec 10) (b : List Word) : (s.setEngine st cur b).fseed = s.fseed := rfl
@[simp] theorem State.setEngine_fstate (s : State) (st : Word) (cur : BitVec 10) (b : List Word) : (s.setEngine st cur b).fstate = s.fstate := rfl
@[simp] theorem State.setEngine_inflight (s : State) (st : Word) (cur : BitVec 10) (b : List Word) : (s.setEngine st cur b).inflight = s.inflight := rfl
@[simp] theorem State.setEngine_mem (s : State) (st : Word) (cur : BitVec 10) (b : List Word) : (s.setEngine st cur b).mem = s.mem := rfl
@[simp] theorem State.setEngine_regions (s : State) (st : Word) (cur : BitVec 10) (b : List Word) : (s.setEngine st cur b).regions = s.regions := rfl
@[simp] theorem State.setEngine_events (s : State) (st : Word) (cur : BitVec 10) (b : List Word) : (s.setEngine st cur b).events = s.events := rfl
@[simp] theorem State.setEngine_replies (s : State) (st : Word) (cur : BitVec 10) (b : List Word) : (s.setEngine st cur b).replies = s.replies := rfl
@[simp] theorem State.setEngine_draws (s : State) (st : Word) (cur : BitVec 10) (b : List Word) : (s.setEngine st cur b).draws = s.draws := rfl

@[simp] theorem State.complete_cfg (s : State) : s.complete.cfg = s.cfg := rfl
@[simp] theorem State.complete_errs (s : State) : s.complete.errs = s.errs := rfl
@[simp] theorem State.complete_drop (s : State) : s.complete.drop = s.drop := rfl
@[simp] theorem State.complete_lastErr (s : State) : s.complete.lastErr = .none := rfl
@[simp] theorem State.complete_arg0 (s : State) : s.complete.arg0 = s.arg0 := rfl
@[simp] theorem State.complete_outLo (s : State) : s.complete.outLo = s.outLo := rfl
@[simp] theorem State.complete_outHi (s : State) : s.complete.outHi = s.outHi := rfl
@[simp] theorem State.complete_engState (s : State) : s.complete.engState = s.engState := rfl
@[simp] theorem State.complete_cursor (s : State) : s.complete.cursor = s.cursor := rfl
@[simp] theorem State.complete_buf (s : State) : s.complete.buf = s.buf := rfl
@[simp] theorem State.complete_fdst (s : State) : s.complete.fdst = s.fdst := rfl
@[simp] theorem State.complete_fcount (s : State) : s.complete.fcount = s.fcount := rfl
@[simp] theorem State.complete_fseed (s : State) : s.complete.fseed = s.fseed := rfl
@[simp] theorem State.complete_fstate (s : State) : s.complete.fstate = s.fstate := rfl
@[simp] theorem State.complete_inflight (s : State) : s.complete.inflight = none := rfl
@[simp] theorem State.complete_mem (s : State) : s.complete.mem = s.mem := rfl
@[simp] theorem State.complete_regions (s : State) : s.complete.regions = s.regions := rfl
@[simp] theorem State.complete_events (s : State) : s.complete.events = s.events := rfl
@[simp] theorem State.complete_replies (s : State) : s.complete.replies = s.replies := rfl
@[simp] theorem State.complete_draws (s : State) : s.complete.draws = s.draws := rfl

@[simp] theorem State.raiseError_cfg (s : State) (e : ErrCode) : (s.raiseError e).cfg = s.cfg := rfl
@[simp] theorem State.raiseError_errs (s : State) (e : ErrCode) : (s.raiseError e).errs = true := rfl
@[simp] theorem State.raiseError_drop (s : State) (e : ErrCode) : (s.raiseError e).drop = s.drop := rfl
@[simp] theorem State.raiseError_lastErr (s : State) (e : ErrCode) : (s.raiseError e).lastErr = e := rfl
@[simp] theorem State.raiseError_arg0 (s : State) (e : ErrCode) : (s.raiseError e).arg0 = s.arg0 := rfl
@[simp] theorem State.raiseError_outLo (s : State) (e : ErrCode) : (s.raiseError e).outLo = s.outLo := rfl
@[simp] theorem State.raiseError_outHi (s : State) (e : ErrCode) : (s.raiseError e).outHi = s.outHi := rfl
@[simp] theorem State.raiseError_engState (s : State) (e : ErrCode) : (s.raiseError e).engState = s.engState := rfl
@[simp] theorem State.raiseError_cursor (s : State) (e : ErrCode) : (s.raiseError e).cursor = s.cursor := rfl
@[simp] theorem State.raiseError_buf (s : State) (e : ErrCode) : (s.raiseError e).buf = s.buf := rfl
@[simp] theorem State.raiseError_fdst (s : State) (e : ErrCode) : (s.raiseError e).fdst = s.fdst := rfl
@[simp] theorem State.raiseError_fcount (s : State) (e : ErrCode) : (s.raiseError e).fcount = s.fcount := rfl
@[simp] theorem State.raiseError_fseed (s : State) (e : ErrCode) : (s.raiseError e).fseed = s.fseed := rfl
@[simp] theorem State.raiseError_fstate (s : State) (e : ErrCode) : (s.raiseError e).fstate = s.fstate := rfl
@[simp] theorem State.raiseError_inflight (s : State) (e : ErrCode) : (s.raiseError e).inflight = none := rfl
@[simp] theorem State.raiseError_mem (s : State) (e : ErrCode) : (s.raiseError e).mem = s.mem := rfl
@[simp] theorem State.raiseError_regions (s : State) (e : ErrCode) : (s.raiseError e).regions = s.regions := rfl
@[simp] theorem State.raiseError_events (s : State) (e : ErrCode) : (s.raiseError e).events = s.events := rfl
@[simp] theorem State.raiseError_replies (s : State) (e : ErrCode) : (s.raiseError e).replies = s.replies := rfl
@[simp] theorem State.raiseError_draws (s : State) (e : ErrCode) : (s.raiseError e).draws = s.draws := rfl

@[simp] theorem State.clearSticky_cfg (s : State) (v : Word) : (s.clearSticky v).cfg = s.cfg := rfl
@[simp] theorem State.clearSticky_errs (s : State) (v : Word) : (s.clearSticky v).errs = (s.errs && !v.getLsbD 1) := rfl
@[simp] theorem State.clearSticky_drop (s : State) (v : Word) : (s.clearSticky v).drop = (s.drop && !v.getLsbD 2) := rfl
@[simp] theorem State.clearSticky_lastErr (s : State) (v : Word) : (s.clearSticky v).lastErr = s.lastErr := rfl
@[simp] theorem State.clearSticky_arg0 (s : State) (v : Word) : (s.clearSticky v).arg0 = s.arg0 := rfl
@[simp] theorem State.clearSticky_outLo (s : State) (v : Word) : (s.clearSticky v).outLo = s.outLo := rfl
@[simp] theorem State.clearSticky_outHi (s : State) (v : Word) : (s.clearSticky v).outHi = s.outHi := rfl
@[simp] theorem State.clearSticky_engState (s : State) (v : Word) : (s.clearSticky v).engState = s.engState := rfl
@[simp] theorem State.clearSticky_cursor (s : State) (v : Word) : (s.clearSticky v).cursor = s.cursor := rfl
@[simp] theorem State.clearSticky_buf (s : State) (v : Word) : (s.clearSticky v).buf = s.buf := rfl
@[simp] theorem State.clearSticky_fdst (s : State) (v : Word) : (s.clearSticky v).fdst = s.fdst := rfl
@[simp] theorem State.clearSticky_fcount (s : State) (v : Word) : (s.clearSticky v).fcount = s.fcount := rfl
@[simp] theorem State.clearSticky_fseed (s : State) (v : Word) : (s.clearSticky v).fseed = s.fseed := rfl
@[simp] theorem State.clearSticky_fstate (s : State) (v : Word) : (s.clearSticky v).fstate = s.fstate := rfl
@[simp] theorem State.clearSticky_inflight (s : State) (v : Word) : (s.clearSticky v).inflight = s.inflight := rfl
@[simp] theorem State.clearSticky_mem (s : State) (v : Word) : (s.clearSticky v).mem = s.mem := rfl
@[simp] theorem State.clearSticky_regions (s : State) (v : Word) : (s.clearSticky v).regions = s.regions := rfl
@[simp] theorem State.clearSticky_events (s : State) (v : Word) : (s.clearSticky v).events = s.events := rfl
@[simp] theorem State.clearSticky_replies (s : State) (v : Word) : (s.clearSticky v).replies = s.replies := rfl
@[simp] theorem State.clearSticky_draws (s : State) (v : Word) : (s.clearSticky v).draws = s.draws := rfl

@[simp] theorem State.dropWrite_cfg (s : State) : s.dropWrite.cfg = s.cfg := rfl
@[simp] theorem State.dropWrite_errs (s : State) : s.dropWrite.errs = s.errs := rfl
@[simp] theorem State.dropWrite_drop (s : State) : s.dropWrite.drop = true := rfl
@[simp] theorem State.dropWrite_lastErr (s : State) : s.dropWrite.lastErr = s.lastErr := rfl
@[simp] theorem State.dropWrite_arg0 (s : State) : s.dropWrite.arg0 = s.arg0 := rfl
@[simp] theorem State.dropWrite_outLo (s : State) : s.dropWrite.outLo = s.outLo := rfl
@[simp] theorem State.dropWrite_outHi (s : State) : s.dropWrite.outHi = s.outHi := rfl
@[simp] theorem State.dropWrite_engState (s : State) : s.dropWrite.engState = s.engState := rfl
@[simp] theorem State.dropWrite_cursor (s : State) : s.dropWrite.cursor = s.cursor := rfl
@[simp] theorem State.dropWrite_buf (s : State) : s.dropWrite.buf = s.buf := rfl
@[simp] theorem State.dropWrite_fdst (s : State) : s.dropWrite.fdst = s.fdst := rfl
@[simp] theorem State.dropWrite_fcount (s : State) : s.dropWrite.fcount = s.fcount := rfl
@[simp] theorem State.dropWrite_fseed (s : State) : s.dropWrite.fseed = s.fseed := rfl
@[simp] theorem State.dropWrite_fstate (s : State) : s.dropWrite.fstate = s.fstate := rfl
@[simp] theorem State.dropWrite_inflight (s : State) : s.dropWrite.inflight = s.inflight := rfl
@[simp] theorem State.dropWrite_mem (s : State) : s.dropWrite.mem = s.mem := rfl
@[simp] theorem State.dropWrite_regions (s : State) : s.dropWrite.regions = s.regions := rfl
@[simp] theorem State.dropWrite_events (s : State) : s.dropWrite.events = s.events := rfl
@[simp] theorem State.dropWrite_replies (s : State) : s.dropWrite.replies = s.replies := rfl
@[simp] theorem State.dropWrite_draws (s : State) : s.dropWrite.draws = s.draws := rfl

@[simp] theorem State.releaseFstate_cfg (s : State) : s.releaseFstate.cfg = s.cfg := rfl
@[simp] theorem State.releaseFstate_errs (s : State) : s.releaseFstate.errs = s.errs := rfl
@[simp] theorem State.releaseFstate_drop (s : State) : s.releaseFstate.drop = s.drop := rfl
@[simp] theorem State.releaseFstate_lastErr (s : State) : s.releaseFstate.lastErr = s.lastErr := rfl
@[simp] theorem State.releaseFstate_arg0 (s : State) : s.releaseFstate.arg0 = s.arg0 := rfl
@[simp] theorem State.releaseFstate_outLo (s : State) : s.releaseFstate.outLo = s.outLo := rfl
@[simp] theorem State.releaseFstate_outHi (s : State) : s.releaseFstate.outHi = s.outHi := rfl
@[simp] theorem State.releaseFstate_engState (s : State) : s.releaseFstate.engState = s.engState := rfl
@[simp] theorem State.releaseFstate_cursor (s : State) : s.releaseFstate.cursor = s.cursor := rfl
@[simp] theorem State.releaseFstate_buf (s : State) : s.releaseFstate.buf = s.buf := rfl
@[simp] theorem State.releaseFstate_fdst (s : State) : s.releaseFstate.fdst = s.fdst := rfl
@[simp] theorem State.releaseFstate_fcount (s : State) : s.releaseFstate.fcount = s.fcount := rfl
@[simp] theorem State.releaseFstate_fseed (s : State) : s.releaseFstate.fseed = s.fseed := rfl
@[simp] theorem State.releaseFstate_fstate (s : State) : s.releaseFstate.fstate = Config.freeWord s.draws := rfl
@[simp] theorem State.releaseFstate_inflight (s : State) : s.releaseFstate.inflight = s.inflight := rfl
@[simp] theorem State.releaseFstate_mem (s : State) : s.releaseFstate.mem = s.mem := rfl
@[simp] theorem State.releaseFstate_regions (s : State) : s.releaseFstate.regions = s.regions := rfl
@[simp] theorem State.releaseFstate_events (s : State) : s.releaseFstate.events = s.events := rfl
@[simp] theorem State.releaseFstate_replies (s : State) : s.releaseFstate.replies = s.replies := rfl
@[simp] theorem State.releaseFstate_draws (s : State) : s.releaseFstate.draws = s.draws + 1 := rfl

@[simp] theorem State.reply_cfg (s : State) (r : Reply) : (s.reply r).cfg = s.cfg := rfl
@[simp] theorem State.reply_errs (s : State) (r : Reply) : (s.reply r).errs = s.errs := rfl
@[simp] theorem State.reply_drop (s : State) (r : Reply) : (s.reply r).drop = s.drop := rfl
@[simp] theorem State.reply_lastErr (s : State) (r : Reply) : (s.reply r).lastErr = s.lastErr := rfl
@[simp] theorem State.reply_arg0 (s : State) (r : Reply) : (s.reply r).arg0 = s.arg0 := rfl
@[simp] theorem State.reply_outLo (s : State) (r : Reply) : (s.reply r).outLo = s.outLo := rfl
@[simp] theorem State.reply_outHi (s : State) (r : Reply) : (s.reply r).outHi = s.outHi := rfl
@[simp] theorem State.reply_engState (s : State) (r : Reply) : (s.reply r).engState = s.engState := rfl
@[simp] theorem State.reply_cursor (s : State) (r : Reply) : (s.reply r).cursor = s.cursor := rfl
@[simp] theorem State.reply_buf (s : State) (r : Reply) : (s.reply r).buf = s.buf := rfl
@[simp] theorem State.reply_fdst (s : State) (r : Reply) : (s.reply r).fdst = s.fdst := rfl
@[simp] theorem State.reply_fcount (s : State) (r : Reply) : (s.reply r).fcount = s.fcount := rfl
@[simp] theorem State.reply_fseed (s : State) (r : Reply) : (s.reply r).fseed = s.fseed := rfl
@[simp] theorem State.reply_fstate (s : State) (r : Reply) : (s.reply r).fstate = s.fstate := rfl
@[simp] theorem State.reply_inflight (s : State) (r : Reply) : (s.reply r).inflight = s.inflight := rfl
@[simp] theorem State.reply_mem (s : State) (r : Reply) : (s.reply r).mem = s.mem := rfl
@[simp] theorem State.reply_regions (s : State) (r : Reply) : (s.reply r).regions = s.regions := rfl
@[simp] theorem State.reply_events (s : State) (r : Reply) : (s.reply r).events = s.events := rfl
@[simp] theorem State.reply_replies (s : State) (r : Reply) : (s.reply r).replies = r :: s.replies := rfl
@[simp] theorem State.reply_draws (s : State) (r : Reply) : (s.reply r).draws = s.draws := rfl

/-! The bookkeeping of a FILL in flight: what a mixing step and a performed element leave alone. -/

@[simp] theorem mixTo_cfg (j : FillJob) (n : Nat) (s : State) : (mixTo j n s).cfg = s.cfg := by unfold mixTo; split <;> rfl
@[simp] theorem mixTo_errs (j : FillJob) (n : Nat) (s : State) : (mixTo j n s).errs = s.errs := by unfold mixTo; split <;> rfl
@[simp] theorem mixTo_drop (j : FillJob) (n : Nat) (s : State) : (mixTo j n s).drop = s.drop := by unfold mixTo; split <;> rfl
@[simp] theorem mixTo_lastErr (j : FillJob) (n : Nat) (s : State) : (mixTo j n s).lastErr = s.lastErr := by unfold mixTo; split <;> rfl
@[simp] theorem mixTo_arg0 (j : FillJob) (n : Nat) (s : State) : (mixTo j n s).arg0 = s.arg0 := by unfold mixTo; split <;> rfl
@[simp] theorem mixTo_outLo (j : FillJob) (n : Nat) (s : State) : (mixTo j n s).outLo = s.outLo := by unfold mixTo; split <;> rfl
@[simp] theorem mixTo_outHi (j : FillJob) (n : Nat) (s : State) : (mixTo j n s).outHi = s.outHi := by unfold mixTo; split <;> rfl
@[simp] theorem mixTo_engState (j : FillJob) (n : Nat) (s : State) : (mixTo j n s).engState = s.engState := by unfold mixTo; split <;> rfl
@[simp] theorem mixTo_cursor (j : FillJob) (n : Nat) (s : State) : (mixTo j n s).cursor = s.cursor := by unfold mixTo; split <;> rfl
@[simp] theorem mixTo_buf (j : FillJob) (n : Nat) (s : State) : (mixTo j n s).buf = s.buf := by unfold mixTo; split <;> rfl
@[simp] theorem mixTo_fdst (j : FillJob) (n : Nat) (s : State) : (mixTo j n s).fdst = s.fdst := by unfold mixTo; split <;> rfl
@[simp] theorem mixTo_fcount (j : FillJob) (n : Nat) (s : State) : (mixTo j n s).fcount = s.fcount := by unfold mixTo; split <;> rfl
@[simp] theorem mixTo_fseed (j : FillJob) (n : Nat) (s : State) : (mixTo j n s).fseed = s.fseed := by unfold mixTo; split <;> rfl
@[simp] theorem mixTo_mem (j : FillJob) (n : Nat) (s : State) : (mixTo j n s).mem = s.mem := by unfold mixTo; split <;> rfl
@[simp] theorem mixTo_regions (j : FillJob) (n : Nat) (s : State) : (mixTo j n s).regions = s.regions := by unfold mixTo; split <;> rfl
@[simp] theorem mixTo_events (j : FillJob) (n : Nat) (s : State) : (mixTo j n s).events = s.events := by unfold mixTo; split <;> rfl
@[simp] theorem mixTo_replies (j : FillJob) (n : Nat) (s : State) : (mixTo j n s).replies = s.replies := by unfold mixTo; split <;> rfl
@[simp] theorem mixTo_draws (j : FillJob) (n : Nat) (s : State) : (mixTo j n s).draws = s.draws := by unfold mixTo; split <;> rfl

@[simp] theorem markWritten_cfg (s : State) (i : Nat) : (markWritten s i).cfg = s.cfg := by unfold markWritten; split <;> rfl
@[simp] theorem markWritten_errs (s : State) (i : Nat) : (markWritten s i).errs = s.errs := by unfold markWritten; split <;> rfl
@[simp] theorem markWritten_drop (s : State) (i : Nat) : (markWritten s i).drop = s.drop := by unfold markWritten; split <;> rfl
@[simp] theorem markWritten_lastErr (s : State) (i : Nat) : (markWritten s i).lastErr = s.lastErr := by unfold markWritten; split <;> rfl
@[simp] theorem markWritten_arg0 (s : State) (i : Nat) : (markWritten s i).arg0 = s.arg0 := by unfold markWritten; split <;> rfl
@[simp] theorem markWritten_outLo (s : State) (i : Nat) : (markWritten s i).outLo = s.outLo := by unfold markWritten; split <;> rfl
@[simp] theorem markWritten_outHi (s : State) (i : Nat) : (markWritten s i).outHi = s.outHi := by unfold markWritten; split <;> rfl
@[simp] theorem markWritten_engState (s : State) (i : Nat) : (markWritten s i).engState = s.engState := by unfold markWritten; split <;> rfl
@[simp] theorem markWritten_cursor (s : State) (i : Nat) : (markWritten s i).cursor = s.cursor := by unfold markWritten; split <;> rfl
@[simp] theorem markWritten_buf (s : State) (i : Nat) : (markWritten s i).buf = s.buf := by unfold markWritten; split <;> rfl
@[simp] theorem markWritten_fdst (s : State) (i : Nat) : (markWritten s i).fdst = s.fdst := by unfold markWritten; split <;> rfl
@[simp] theorem markWritten_fcount (s : State) (i : Nat) : (markWritten s i).fcount = s.fcount := by unfold markWritten; split <;> rfl
@[simp] theorem markWritten_fseed (s : State) (i : Nat) : (markWritten s i).fseed = s.fseed := by unfold markWritten; split <;> rfl
@[simp] theorem markWritten_fstate (s : State) (i : Nat) : (markWritten s i).fstate = s.fstate := by unfold markWritten; split <;> rfl
@[simp] theorem markWritten_mem (s : State) (i : Nat) : (markWritten s i).mem = s.mem := by unfold markWritten; split <;> rfl
@[simp] theorem markWritten_regions (s : State) (i : Nat) : (markWritten s i).regions = s.regions := by unfold markWritten; split <;> rfl
@[simp] theorem markWritten_events (s : State) (i : Nat) : (markWritten s i).events = s.events := by unfold markWritten; split <;> rfl
@[simp] theorem markWritten_replies (s : State) (i : Nat) : (markWritten s i).replies = s.replies := by unfold markWritten; split <;> rfl
@[simp] theorem markWritten_draws (s : State) (i : Nat) : (markWritten s i).draws = s.draws := by unfold markWritten; split <;> rfl

end Sys2Proof.Machine
end

