-- ==== Sys2Proof/Laws/Ops.lean ====
section
/-! SUPPORT. For each shared operation, one lemma that says everything it can do, for later proofs to cite instead of
unfolding it. -/

namespace Sys2Proof.Machine

/-! The dispatch, arm by arm. -/

theorem exec_mixpA2 (s : State) : exec .mixpA2 s = execMixpA2 s := rfl
theorem exec_mixpA1 (s : State) : exec .mixpA1 s = execMixpA1 s := rfl
theorem exec_mixpB (s : State) : exec .mixpB s = execMixpB s := rfl
theorem exec_seed (s : State) : exec .seed s = execSeed s := rfl
theorem exec_drawB (s : State) : exec .drawB s = execDrawB s := rfl
theorem exec_drawH (s : State) : exec .drawH s = execDrawH s := rfl
theorem exec_drawW (s : State) : exec .drawW s = execDrawW s := rfl
theorem exec_drawD (s : State) : exec .drawD s = execDrawD s := rfl
theorem exec_drawQ (s : State) : exec .drawQ s = execDrawQ s := rfl
theorem exec_cvtD (s : State) : exec .cvtD s = execCvtD s := rfl
theorem exec_cvtS (s : State) : exec .cvtS s = execCvtS s := rfl
theorem exec_cvtS2 (s : State) : exec .cvtS2 s = execCvtS2 s := rfl
theorem exec_cvtSfix (s : State) : exec .cvtSfix s = execCvtSfix s := rfl
theorem exec_fillDA2 (s : State) : exec .fillDA2 s = execFillDA2 s := rfl
theorem exec_fillDA1 (s : State) : exec .fillDA1 s = execFillDA1 s := rfl
theorem exec_fillDB (s : State) : exec .fillDB s = execFillDB s := rfl
theorem exec_fillSA2 (s : State) : exec .fillSA2 s = execFillSA2 s := rfl
theorem exec_fillSA1 (s : State) : exec .fillSA1 s = execFillSA1 s := rfl
theorem exec_fillSB (s : State) : exec .fillSB s = execFillSB s := rfl

/-! Commands. -/

theorem mixpCommand_next (f : Word → Word × Word) (s : State) :
    mixpCommand f s = .next { s with outLo := (f s.operands.arg0).2, outHi := (f s.operands.arg0).1,
                                     lastErr := .none, inflight := none } := rfl

theorem cvtCommand_next (f : ScaleMode → Word → Word) (s : State) :
    cvtCommand f s = .next { s with outLo := f s.cfg.scaleMode s.operands.arg0, outHi := 0#64,
                                    lastErr := .none, inflight := none } := rfl

theorem drawCommand_next (b : Nat) (s : State) :
    drawCommand b s = .next { s with outLo := lo64 (draw s.cfg b s.engine).1, outHi := hi64 (draw s.cfg b s.engine).1,
                                     engState := (draw s.cfg b s.engine).2.st,
                                     cursor := (draw s.cfg b s.engine).2.cursor,
                                     buf := (draw s.cfg b s.engine).2.buf,
                                     lastErr := .none, inflight := none } := rfl

theorem execSeed_next (s : State) :
    execSeed s = .next { s with engState := substSeed s.cfg s.operands.arg0,
                                cursor := if buffered s.cfg then BitVec.ofNat 10 (8 * s.cfg.engUnroll) else s.cursor,
                                lastErr := .none, inflight := none } := rfl

/-- Everything a FILL command can do (43_fill.md R108, R112, 60_exceptions.md R133). -/
theorem fillCommand_cases (b : ElemSize) (k : Strategy) (s : State) :
    (fillCheck s.cfg b s.operands = .noop ∧ fillCommand b k s = .next (finishFill s)) ∨
    (∃ e, fillCheck s.cfg b s.operands = .reject e ∧ fillCommand b k s = .next (s.raiseError e)) ∨
    (fillCheck s.cfg b s.operands = .proceed ∧
      ((onDevice s.regions (fillJob s.cfg b k s.operands) = true ∧ fillCommand b k s = .refused .deviceTarget) ∨
       (onDevice s.regions (fillJob s.cfg b k s.operands) = false ∧
        willBeRefused (fillJob s.cfg b k s.operands) s = true ∧
        fillCommand b k s = .next (endWithBus (fillJob s.cfg b k s.operands) s)) ∨
       (onDevice s.regions (fillJob s.cfg b k s.operands) = false ∧
        willBeRefused (fillJob s.cfg b k s.operands) s = false ∧
        fillCommand b k s = .next (finishFill { s with
          mem := writeElems (fillJob s.cfg b k s.operands) (pending s)
            (fillJob s.cfg b k s.operands).count s.mem })))) := by
  unfold fillCommand
  cases h : fillCheck s.cfg b s.operands with
  | noop => exact .inl ⟨rfl, rfl⟩
  | reject e => exact .inr (.inl ⟨e, rfl, rfl⟩)
  | proceed =>
    refine .inr (.inr ⟨rfl, ?_⟩)
    simp only [performFill]
    cases hd : onDevice s.regions (fillJob s.cfg b k s.operands)
    · cases hw : willBeRefused (fillJob s.cfg b k s.operands) s
      · exact .inr (.inr ⟨rfl, rfl, by simp⟩)
      · exact .inr (.inl ⟨rfl, rfl, by simp⟩)
    · exact .inl ⟨rfl, by simp⟩

theorem fillCheck_noop_iff (c : Config) (b : ElemSize) (o : Operands) :
    fillCheck c b o = .noop ↔ o.fcount = 0#64 := by
  unfold fillCheck
  repeat' split
  all_goals simp_all

/-- Acceptance by validation is exactly: n is not 0, the address is aligned, the end is inside the address space. -/
theorem fillCheck_proceed_iff (c : Config) (b : ElemSize) (o : Operands) :
    fillCheck c b o = .proceed ↔
      o.fcount ≠ 0#64 ∧ o.fdst.toNat % elemBytes b = 0 ∧
        o.fdst.toNat + o.fcount.toNat * elemBytes b ≤ 2 ^ c.addrW := by
  unfold fillCheck
  repeat' split
  all_goals simp_all

/-- A FILL's meaning is `fillCommand` of its form. -/
theorem exec_fill {i : Instr} {b : ElemSize} {k : Strategy} (h : fillForm i = some (b, k)) (s : State) :
    exec i s = fillCommand b k s := by
  cases i <;> simp only [fillForm, Option.some.injEq, Prod.mk.injEq, reduceCtorEq] at h <;>
    (obtain ⟨rfl, rfl⟩ := h; rfl)

/-- What no command changes, whatever it does, and that none is in flight after it. -/
def ExecFrame (s t : State) : Prop :=
  t.cfg = s.cfg ∧ t.drop = s.drop ∧ t.arg0 = s.arg0 ∧ t.fdst = s.fdst ∧ t.fcount = s.fcount ∧ t.fseed = s.fseed ∧
    t.regions = s.regions ∧ t.events = s.events ∧ t.replies = s.replies ∧ t.inflight = none

theorem mixpCommand_frame {f : Word → Word × Word} {s t : State} (h : mixpCommand f s = .next t) : ExecFrame s t := by
  rw [mixpCommand_next] at h
  injection h with h
  subst h
  exact ⟨rfl, rfl, rfl, rfl, rfl, rfl, rfl, rfl, rfl, rfl⟩

theorem cvtCommand_frame {f : ScaleMode → Word → Word} {s t : State} (h : cvtCommand f s = .next t) :
    ExecFrame s t := by
  rw [cvtCommand_next] at h
  injection h with h
  subst h
  exact ⟨rfl, rfl, rfl, rfl, rfl, rfl, rfl, rfl, rfl, rfl⟩

theorem drawCommand_frame {b : Nat} {s t : State} (h : drawCommand b s = .next t) : ExecFrame s t := by
  rw [drawCommand_next] at h
  injection h with h
  subst h
  exact ⟨rfl, rfl, rfl, rfl, rfl, rfl, rfl, rfl, rfl, rfl⟩

theorem execSeed_frame {s t : State} (h : execSeed s = .next t) : ExecFrame s t := by
  rw [execSeed_next] at h
  injection h with h
  subst h
  exact ⟨rfl, rfl, rfl, rfl, rfl, rfl, rfl, rfl, rfl, rfl⟩

theorem fillCommand_frame {b : ElemSize} {k : Strategy} {s t : State} (h : fillCommand b k s = .next t) :
    ExecFrame s t := by
  rcases fillCommand_cases b k s with ⟨-, h'⟩ | ⟨e, -, h'⟩ | ⟨-, ⟨-, h'⟩ | ⟨-, -, h'⟩ | ⟨-, -, h'⟩⟩ <;>
    rw [h'] at h <;> first | injection h with h | cases h
  all_goals subst h; exact ⟨rfl, rfl, rfl, rfl, rfl, rfl, rfl, rfl, rfl, rfl⟩

theorem exec_next_frame {i : Instr} {s t : State} (h : exec i s = .next t) : ExecFrame s t := by
  cases i with
  | mixpA2 => exact mixpCommand_frame h
  | mixpA1 => exact mixpCommand_frame h
  | mixpB => exact mixpCommand_frame h
  | seed => exact execSeed_frame h
  | drawB => exact drawCommand_frame h
  | drawH => exact drawCommand_frame h
  | drawW => exact drawCommand_frame h
  | drawD => exact drawCommand_frame h
  | drawQ => exact drawCommand_frame h
  | cvtD =>
    rw [exec_cvtD, execCvtD] at h
    exact cvtCommand_frame h
  | cvtS =>
    rw [exec_cvtS, execCvtS] at h
    exact cvtCommand_frame h
  | cvtS2 =>
    rw [exec_cvtS2, execCvtS2] at h
    exact cvtCommand_frame h
  | cvtSfix =>
    rw [exec_cvtSfix, execCvtSfix] at h
    exact cvtCommand_frame h
  | fillDA2 => exact fillCommand_frame h
  | fillDA1 => exact fillCommand_frame h
  | fillDB => exact fillCommand_frame h
  | fillSA2 => exact fillCommand_frame h
  | fillSA1 => exact fillCommand_frame h
  | fillSB => exact fillCommand_frame h

/-! Submission and the register window. -/

/-- Everything a submission can do (60_exceptions.md R127). -/
theorem submit_cases (word : Half) (s : State) :
    ((∃ e, decode word = .error e) ∧ submit word s = s.raiseError .illegal) ∨
    (∃ i e, decode word = .ok i ∧ rejection s.cfg i s.liveOperands = some e ∧ submit word s = s.raiseError e) ∨
    (∃ i, decode word = .ok i ∧ rejection s.cfg i s.liveOperands = none ∧ submit word s = accept word i s) := by
  unfold submit
  cases hd : decode word with
  | error e => exact .inl ⟨⟨e, rfl⟩, rfl⟩
  | ok i =>
    cases hr : rejection s.cfg i s.liveOperands with
    | none => exact .inr (.inr ⟨i, rfl, hr, by simp [hr]⟩)
    | some e => exact .inr (.inl ⟨i, e, rfl, hr, by simp [hr]⟩)

/-- Everything a supported write of the window can do. -/
theorem writeWindow_cases (s : State) (w : Width) (off : BitVec 8) (v : Word) :
    writeWindow s w off v = s ∨ writeWindow s w off v = s.clearSticky v ∨
    (s.busy = true ∧ writeWindow s w off v = s.dropWrite) ∨
    (s.busy = false ∧ writeWindow s w off v = submit (v.extractLsb' 0 32) s) ∨
    (s.busy = false ∧ ∃ x, writeWindow s w off v = { s with arg0 := x }) ∨
    (s.busy = false ∧ ∃ x, writeWindow s w off v = { s with fdst := x }) ∨
    (s.busy = false ∧ ∃ x, writeWindow s w off v = { s with fcount := x }) ∨
    (s.busy = false ∧ ∃ x, writeWindow s w off v = { s with fseed := x }) := by
  unfold writeWindow
  cases hb : s.busy <;> cases regAt off with
  | none => simp
  | some r => cases r <;> cases laneOf w off <;> simp [writeReg, writeOperand, hb]

/-- Everything an accepted command's record holds (60_exceptions.md R129). -/
theorem accept_inflight (word : Half) (i : Instr) (s : State) :
    (accept word i s).inflight = some ⟨word, s.liveOperands, [], 0⟩ := by
  unfold accept
  split <;> rfl

/-! Agents. -/

/-- Everything the command unit's turn can do (60_exceptions.md R130). -/
theorem unitTurn_cases (s : State) :
    (s.inflight = none ∧ unitTurn s = .next s) ∨
    (∃ r i, s.inflight = some r ∧ decode r.word = .ok i ∧ unitTurn s = exec i s) ∨
    (∃ r e, s.inflight = some r ∧ decode r.word = .error e ∧ unitTurn s = .next (s.raiseError .illegal)) := by
  unfold unitTurn
  cases hf : s.inflight with
  | none => exact .inl ⟨rfl, rfl⟩
  | some r =>
    cases hd : decode r.word with
    | ok i => exact .inr (.inl ⟨r, i, rfl, hd, by simp [hd]⟩)
    | error e => exact .inr (.inr ⟨r, e, rfl, hd, by simp [hd]⟩)

/-- What it means that a FILL with elements to write is in flight. -/
theorem inflightFill_eq_some {s : State} {j : FillJob} (h : inflightFill s = some j) :
    ∃ r i b k, s.inflight = some r ∧ decode r.word = .ok i ∧ fillForm i = some (b, k) ∧
      fillCheck s.cfg b r.ops = .proceed ∧ j = fillJob s.cfg b k r.ops := by
  unfold inflightFill at h
  split at h
  · cases h
  · next r hr =>
    split at h
    · cases h
    · next i hi =>
      split at h
      · cases h
      · next b k hf =>
        split at h
        · next hc => cases h; exact ⟨r, i, b, k, hr, hi, hf, hc, rfl⟩
        · cases h
        · cases h

theorem inflightFill_of {s : State} {r : InFlight} {i : Instr} {b : ElemSize} {k : Strategy}
    (hr : s.inflight = some r) (hi : decode r.word = .ok i) (hf : fillForm i = some (b, k))
    (hc : fillCheck s.cfg b r.ops = .proceed) : inflightFill s = some (fillJob s.cfg b k r.ops) := by
  simp [inflightFill, hr, hi, hf, hc]

/-- Advancing FSTATE of a command in flight (10_state.md R32). -/
theorem mixTo_of_inflight {s : State} {r : InFlight} (j : FillJob) (n : Nat) (hr : s.inflight = some r) :
    mixTo j n s =
      { s with
        fstate := streamState j.strat s.fstate (n - r.mixed)
        inflight := some { r with mixed := max r.mixed n } } := by
  simp [mixTo, hr]

/-- Marking an element of the FILL in flight as performed. -/
theorem markWritten_of_inflight {s : State} {r : InFlight} (i : Nat) (hr : s.inflight = some r) :
    markWritten s i = { s with inflight := some { r with written := i :: r.written } } := by
  simp [markWritten, hr]

/-- `m` mixing steps after `n` are `n + m` mixing steps (43_fill.md R109). -/
theorem streamState_add (k : Strategy) (seed : Word) (n m : Nat) :
    streamState k (streamState k seed n) m = streamState k seed (n + m) := by
  induction m with
  | zero => rfl
  | succ m ih => simp only [streamState, ih, Nat.add_eq]

/-- Everything a mixing turn can do (43_fill.md R109, R118). -/
theorem mixTurn_cases (s : State) :
    (inflightFill s = none ∧ mixTurn s = .next s) ∨
    ∃ j r, inflightFill s = some j ∧ s.inflight = some r ∧
      mixTurn s =
        .next { s with
          fstate := (mix j.strat s.fstate).1
          inflight := some { r with mixed := r.mixed + 1 } } := by
  unfold mixTurn
  cases hj : inflightFill s with
  | none => exact .inl ⟨rfl, rfl⟩
  | some j =>
    obtain ⟨r, -, -, -, hr, -⟩ := inflightFill_eq_some hj
    refine .inr ⟨j, r, rfl, hr, ?_⟩
    have hm : s.mixed = r.mixed := by simp [State.mixed, hr]
    have h1 : r.mixed + 1 - r.mixed = 1 := by omega
    have h2 : max r.mixed (r.mixed + 1) = r.mixed + 1 := by omega
    simp only [mixTo_of_inflight _ _ hr, hm, h1, h2]
    rfl

/-- Everything the fill writer's turn can do (43_fill.md R112, 60_exceptions.md R133). -/
theorem writerTurn_cases (i : Nat) (s : State) :
    writerTurn i s = .next s ∨
    ∃ j, inflightFill s = some j ∧ i < j.count ∧ pending s i = true ∧
      ((onDevice s.regions j = true ∧ writerTurn i s = .refused .deviceTarget) ∨
       (onDevice s.regions j = false ∧ elemRefused s.regions j i = true ∧ writerTurn i s = .next (endWithBus j s)) ∨
       (onDevice s.regions j = false ∧ elemRefused s.regions j i = false ∧
        writerTurn i s =
          .next (markWritten (mixTo j (wordIndex j i + 1) { s with mem := writeElem j s.mem i }) i))) := by
  unfold writerTurn
  cases hj : inflightFill s with
  | none => exact .inl rfl
  | some j =>
    by_cases hp : i < j.count ∧ pending s i = true
    · refine .inr ⟨j, rfl, hp.1, hp.2, ?_⟩
      cases hd : onDevice s.regions j <;> cases he : elemRefused s.regions j i <;> simp [hp.1, hp.2, hd, he]
    · refine .inl ?_
      have : (decide (i < j.count) && pending s i) = false := by
        by_cases h1 : i < j.count
        · cases h2 : pending s i
          · simp
          · exact absurd ⟨h1, h2⟩ hp
        · simp [h1]
      simp [this]

/-- Everything a reset can do (70_reset_and_hazards.md R146, R147). -/
theorem resetTurn_cases (s : State) :
    (inflightFill s = none ∧ resetTurn s = .next (resetBlock s)) ∨
    ∃ j, inflightFill s = some j ∧
      ((onDevice s.regions j = true ∧ resetTurn s = .refused .deviceTarget) ∨
       (onDevice s.regions j = false ∧
        resetTurn s = .next (resetBlock { s with mem := writeElems j (freelyPerformed s) j.count s.mem }))) := by
  unfold resetTurn
  cases hj : inflightFill s with
  | none => exact .inl ⟨rfl, rfl⟩
  | some j =>
    refine .inr ⟨j, rfl, ?_⟩
    cases hd : onDevice s.regions j <;> simp [hd]

/-- A step with a well-formed configuration is the next turn (00_scope.md R14). -/
theorem step_of_wf {s : State} (h : s.cfg.wf = true) : step s = nextTurn s := by simp [step, h]

theorem step_event {s : State} {e : Event} {rest : List Event} (h : s.cfg.wf = true) (he : s.events = e :: rest) :
    step s = handleEvent e { s with events := rest } := by simp [step, h, nextTurn, he]

theorem step_empty {s : State} (h : s.cfg.wf = true) (he : s.events = []) : step s = unitTurn s := by
  simp [step, h, nextTurn, he]

/-- A step that answers a next state had a well-formed configuration. -/
theorem wf_of_step_next {s t : State} (h : step s = .next t) : s.cfg.wf = true := by
  by_contra hc
  simp [step, hc] at h

end Sys2Proof.Machine
end

