-- ==== Sys2Proof/Laws/PerInstr.lean ====
section
/-! SUPPORT. Facts about every command as syntax, one lemma per constructor. -/

namespace Sys2Proof.Laws.FormatCEncoding

/-- The command's word is format C with RSV = 0, is not the zero word, and has the command's OP and SUB back when its
fields are read (30_encoding.md R64, R68 (1)). -/
def Statement (i : Instr) : Prop :=
  rsvField (encode i) = 0#20 ∧ encode i ≠ 0#32 ∧ formatC (opField (encode i)) (subField (encode i)) = encode i

theorem mixpA2 : Statement .mixpA2 := by unfold Statement; decide
theorem mixpA1 : Statement .mixpA1 := by unfold Statement; decide
theorem mixpB : Statement .mixpB := by unfold Statement; decide
theorem seed : Statement .seed := by unfold Statement; decide
theorem drawB : Statement .drawB := by unfold Statement; decide
theorem drawH : Statement .drawH := by unfold Statement; decide
theorem drawW : Statement .drawW := by unfold Statement; decide
theorem drawD : Statement .drawD := by unfold Statement; decide
theorem drawQ : Statement .drawQ := by unfold Statement; decide
theorem cvtD : Statement .cvtD := by unfold Statement; decide
theorem cvtS : Statement .cvtS := by unfold Statement; decide
theorem cvtS2 : Statement .cvtS2 := by unfold Statement; decide
theorem cvtSfix : Statement .cvtSfix := by unfold Statement; decide
theorem fillDA2 : Statement .fillDA2 := by unfold Statement; decide
theorem fillDA1 : Statement .fillDA1 := by unfold Statement; decide
theorem fillDB : Statement .fillDB := by unfold Statement; decide
theorem fillSA2 : Statement .fillSA2 := by unfold Statement; decide
theorem fillSA1 : Statement .fillSA1 := by unfold Statement; decide
theorem fillSB : Statement .fillSB := by unfold Statement; decide

end Sys2Proof.Laws.FormatCEncoding
end

