-- ==== Sys2Proof/Laws/Run.lean ====
section
/-! SUPPORT. Runs of several steps, one step at a time. -/

namespace Sys2Proof.Machine

theorem run_succ_of_next {k : Nat} {s t : State} (h : step s = .next t) :
    Host.Core.run Sys2Proof.core (k + 1) s = Host.Core.run Sys2Proof.core k t := by
  have h' : Sys2Proof.core.step s = .next t := h
  simp only [Host.Core.run, h']

theorem run_succ_of_fault {k : Nat} {s : State} {f : Fault} (h : step s = .fault f) :
    Host.Core.run Sys2Proof.core (k + 1) s = .fault f := by
  have h' : Sys2Proof.core.step s = .fault f := h
  simp only [Host.Core.run, h']

theorem run_succ_of_refused {k : Nat} {s : State} {f : Refusal} (h : step s = .refused f) :
    Host.Core.run Sys2Proof.core (k + 1) s = .refused f := by
  have h' : Sys2Proof.core.step s = .refused f := h
  simp only [Host.Core.run, h']

theorem run_one (s : State) : Host.Core.run Sys2Proof.core 1 s = step s := by
  cases h : step s with
  | next t => rw [run_succ_of_next h]; rfl
  | fault f => rw [run_succ_of_fault h]; rfl
  | refused f => rw [run_succ_of_refused h]; rfl

end Sys2Proof.Machine
end

