-- ==== Sys2Proof/Tests/Slice0.lean ====
section
/-! SUPPORT. The model's own tests. Expected values come from spec/: the opcode map (30_encoding.md R66) and the vectors
of 95_test_vectors.md. The last part gives, for every statement with hypotheses, states that meet them. -/

namespace Sys2Proof.Tests

open Sys2Proof Sys2Proof.Machine Sys2Proof.Reference

/-! ## Helpers -/

/-- The block of configuration `c` after reset, with operand values. -/
def block (c : Config) (a dst n seed : Nat) : State :=
  { State.resetOf c with
    arg0 := BitVec.ofNat 64 a, fdst := BitVec.ofNat 64 dst, fcount := BitVec.ofNat 64 n, fseed := BitVec.ofNat 64 seed }

/-- The default configuration, and the default with SCALE_MODE = POW2. -/
def dflt : Config := Config.default
def pow2 : Config := { Config.default with scaleMode := .pow2 }

/-- A buffered configuration of `n` words. -/
def bufferedBy (n : Nat) : Config := { Config.default with engUnroll := n }

/-- A buffered block that holds the first two words of the stream of seed 1, with the given CURSOR. -/
def halfDrawn (cur : Nat) : State :=
  { State.resetOf (bufferedBy 2) with
    engState := 0xc17dc57dc241f82b#64, cursor := BitVec.ofNat 10 cur
    buf := [0x0d603133dc4196d3#64, 0x37fe602161e200a8#64] }

/-- The next state of an outcome. -/
def nextOf (o : Host.Outcome State Fault Refusal) : Option State :=
  match o with
  | .next t => some t
  | .fault _ => none
  | .refused _ => none

/-- OUT_HI and OUT_LO after a command. -/
def outAfter (i : Instr) (s : State) : Option (Nat × Nat) :=
  (nextOf (exec i s)).map (fun t => (t.outHi.toNat, t.outLo.toNat))

/-- The element of `b` bytes at address `a` after a command. -/
def elemAfter (i : Instr) (s : State) (a b : Nat) : Option Nat :=
  (nextOf (exec i s)).map (fun t => (t.mem.readLE a b).toNat)

/-- STATUS after a word is submitted. -/
def statusAfter (word : Half) (s : State) : Nat := (submit word s).statusWord.toNat

/-! ## Well-formedness: an ill-formed term for each check, which the check refuses -/

theorem test_wf_default : Config.default.wf = true := by decide
theorem test_wf_engUnroll : (bufferedBy 65).engUnrollOk = false ∧ (bufferedBy 65).wf = false := by decide
theorem test_wf_engUnroll_limit : (bufferedBy 64).wf = true := by decide
theorem test_wf_fillUnroll :
    Config.fillUnrollOk { dflt with fillUnroll := 0 } = false ∧ Config.wf { dflt with fillUnroll := 256 } = false := by
  decide
theorem test_wf_vecLanes :
    Config.vecOk { dflt with vecEn := true, vecLanes64 := 3 } = false ∧
      Config.vecOk { dflt with vecLanes64 := 4 } = false ∧
      Config.wf { dflt with vecEn := true, vecLanes64 := 0 } = false ∧
      Config.wf { dflt with vecEn := true, vecLanes64 := 4 } = true := by decide
theorem test_wf_defaultSeed :
    Config.defaultSeedOk { dflt with defaultSeed := 0#64 } = false ∧ Config.wf { dflt with defaultSeed := 0#64 } = false := by
  decide
theorem test_wf_addrW : Config.addrWOk { dflt with addrW := 0 } = false ∧ Config.wf { dflt with addrW := 65 } = false := by
  decide
theorem test_wf_base : Config.baseOk { dflt with base := 0x80 } = false ∧ Config.wf { dflt with base := 0x80 } = false := by
  decide
theorem test_wf_access :
    mmioSupported .w8 0x10#8 = false ∧ mmioSupported .w16 0x10#8 = false ∧ mmioSupported .w32 0x12#8 = false ∧
      mmioSupported .w64 0x14#8 = false ∧ mmioSupported .w32 0x14#8 = true := by decide

/-! ## Decoding: every row of 30_encoding.md R66, its word written bit by bit from OP, SUB and RSV -/

theorem test_decode_mixp :
    decode 0b00000001000000000000000000000000#32 = .ok .mixpA2 ∧
      decode 0b00000001000100000000000000000000#32 = .ok .mixpA1 ∧
      decode 0b00000001001000000000000000000000#32 = .ok .mixpB := by decide
theorem test_decode_seed : decode 0b00010000000000000000000000000000#32 = .ok .seed := by decide
theorem test_decode_draw :
    decode 0b00010001000000000000000000000000#32 = .ok .drawB ∧
      decode 0b00010001000100000000000000000000#32 = .ok .drawH ∧
      decode 0b00010001001000000000000000000000#32 = .ok .drawW ∧
      decode 0b00010001001100000000000000000000#32 = .ok .drawD ∧
      decode 0b00010001010000000000000000000000#32 = .ok .drawQ := by decide
theorem test_decode_cvt :
    decode 0b00100000000000000000000000000000#32 = .ok .cvtD ∧
      decode 0b00100000000100000000000000000000#32 = .ok .cvtS ∧
      decode 0b00100000001000000000000000000000#32 = .ok .cvtS2 ∧
      decode 0b00100000001100000000000000000000#32 = .ok .cvtSfix := by decide
theorem test_decode_fill_d :
    decode 0b00110000000000000000000000000000#32 = .ok .fillDA2 ∧
      decode 0b00110000000100000000000000000000#32 = .ok .fillDA1 ∧
      decode 0b00110000001000000000000000000000#32 = .ok .fillDB := by decide
theorem test_decode_fill_s :
    decode 0b00110001000000000000000000000000#32 = .ok .fillSA2 ∧
      decode 0b00110001000100000000000000000000#32 = .ok .fillSA1 ∧
      decode 0b00110001001000000000000000000000#32 = .ok .fillSB := by decide

/-- 30_encoding.md R68 and 95_test_vectors.md 2.5: illegal words, by reason. -/
theorem test_decode_illegal :
    decode 0x00000000#32 = .error .undefinedOp ∧ decode 0x01300000#32 = .error .undefinedSub ∧
      decode 0x10100000#32 = .error .undefinedSub ∧ decode 0x11500000#32 = .error .undefinedSub ∧
      decode 0x20400000#32 = .error .undefinedSub ∧ decode 0x30000001#32 = .error .reservedBits ∧
      decode 0x31300000#32 = .error .undefinedSub ∧ decode 0xFF000000#32 = .error .undefinedOp := by decide

theorem test_decodeTableWord :
    decodeTableWord 32 0x31200000 = some .fillSB ∧ decodeTableWord 32 0x00000001 = none ∧
      decodeTableWord 64 0x31200000 = none := by decide

/-! ## One step of each command: 95_test_vectors.md Part 2 -/

/-- 2.1, ARG0 = 1, and ARG0 all ones (the addition wraps). -/
theorem test_mixpA2 :
    outAfter .mixpA2 (block dflt 1 0 0 0) = some (0x60bee2bee120fc16, 0x0d603133dc4196d3) ∧
      outAfter .mixpA2 (block dflt 0xFFFFFFFFFFFFFFFF 0 0 0) = some (0x60bee2bee120fc14, 0x28a1fed1fc4b907a) := by
  decide
theorem test_mixpA1 :
    outAfter .mixpA1 (block dflt 1 0 0 0) = some (0x60bee2bee120fc16, 0xb401b07887b9e708) ∧
      outAfter .mixpA1 (block dflt 0xFFFFFFFFFFFFFFFF 0 0 0) = some (0x60bee2bee120fc14, 0x0a1c3f1844a196ba) := by
  decide
theorem test_mixpB :
    outAfter .mixpB (block dflt 1 0 0 0) = some (0x91c0fcc17ec34a25, 0x91c0fcc17ec34a25) ∧
      outAfter .mixpB (block dflt 0x61c8864e7a143579 0 0 0) = some (0, 0) := by decide

/-- 2.2: a zero seed is replaced; CURSOR becomes 8N. -/
theorem test_seed :
    (nextOf (exec .seed (block dflt 0 0 0 0))).map (fun t => t.engState.toNat) = some 0x539 ∧
      (nextOf (exec .seed { halfDrawn 4 with arg0 := 1#64 })).map
        (fun t => (t.engState.toNat, t.cursor.toNat, t.outLo.toNat)) = some (1, 16, 0) := by decide

/-- 2.2, buffered: DRAW.B at CURSOR 14 gives 0xfe; at CURSOR 16 it refills. -/
theorem test_drawB :
    outAfter .drawB (halfDrawn 14) = some (0, 0xfe) ∧
      outAfter .drawB { block dflt 0 0 0 0 with engState := 0x82fb8afb8483f055#64 } = some (0, 0x3b) := by decide
/-- 2.2, buffered: DRAW.H at CURSOR 15 refills, CURSOR 2; unbuffered A1 from 0x539. -/
theorem test_drawH :
    (nextOf (exec .drawH (halfDrawn 15))).map (fun t => (t.outLo.toNat, t.cursor.toNat, t.engState.toNat)) =
        some (0x5f78, 2, 0x82fb8afb8483f055) ∧
      outAfter .drawH (State.resetOf { dflt with engStrat := .a1 }) = some (0, 0x5503) := by decide
theorem test_drawW :
    outAfter .drawW (halfDrawn 8) = some (0, 0x61e200a8) ∧
      outAfter .drawW { block dflt 0 0 0 0 with engState := 0x60bee2bee120fc16#64 } = some (0, 0x61e200a8) := by decide
/-- 2.2, buffered: an unaligned DRAW.D at CURSOR 4. -/
theorem test_drawD :
    (nextOf (exec .drawD (halfDrawn 4))).map (fun t => (t.outLo.toNat, t.cursor.toNat)) =
        some (0x61e200a80d603133, 12) ∧
      outAfter .drawD { block dflt 0 0 0 0 with engState := 1#64 } = some (0, 0x0d603133dc4196d3) := by decide
theorem test_drawQ :
    outAfter .drawQ (halfDrawn 12) = some (0x26eed0a3e365a91d, 0x84b52d6248235f78) ∧
      outAfter .drawQ { block dflt 0 0 0 0 with engState := 1#64 } = some (0x37fe602161e200a8, 0x0d603133dc4196d3) := by
  decide

/-- 2.3: the top of the range under DOC, and a word of the stream of seed 1 under both modes. -/
theorem test_cvtD :
    outAfter .cvtD (block dflt 0xfffffffffffff000 0 0 0) = some (0, 0x3FF0000000000000) ∧
      outAfter .cvtD (block pow2 0x0d603133dc4196d3 0 0 0) = some (0, 0x3FAAC06267B88320) := by decide
theorem test_cvtS :
    outAfter .cvtS (block dflt 0xFFFFFFFFdc4196d3 0 0 0) = some (0, 0x3F5C4197) ∧
      outAfter .cvtS (block pow2 0xfffff800 0 0 0) = some (0, 0x3F7FFFF8) := by decide
theorem test_cvtS2 :
    outAfter .cvtS2 (block dflt 0x0d603133dc4196d3 0 0 0) = some (0, 0x3D5603073F5C4197) ∧
      outAfter .cvtS2 (block dflt 0xFFFFF800000007FF 0 0 0) = some (0, 0x3F80000000000000) := by decide
theorem test_cvtSfix :
    outAfter .cvtSfix (block dflt 0x0d603133dc4196d3 0 0 0) = some (0, 0x3D560307) ∧
      outAfter .cvtSfix (block dflt 0x000007ffffffffff 0 0 0) = some (0, 0) := by decide

/-- 1.3 and 1.5: the second element of seed 1, and of the zero seed. -/
theorem test_fillDA2 :
    elemAfter .fillDA2 (block dflt 0 0x1000 2 1) 0x1008 8 = some 0x3FCBFF3010B0F102 ∧
      elemAfter .fillDA2 (block dflt 0 0x1000 2 0) 0x1008 8 = some 0x3FB6B716987C1F31 := by decide
theorem test_fillDA1 :
    elemAfter .fillDA1 (block dflt 0 0x1000 2 1) 0x1000 8 = some 0x3FE680360F10F73D ∧
      elemAfter .fillDA1 (block dflt 0 0x1000 2 1) 0x1008 8 = some 0x3FED587ADA74FD11 := by decide
theorem test_fillDB :
    elemAfter .fillDB (block dflt 0 0x1000 2 1) 0x1000 8 = some 0x3FE2381F982FD86A ∧
      elemAfter .fillDB (block dflt 0 0x1000 2 1) 0x1008 8 = some 0x3FEC894D85D1F50D := by decide
/-- 1.6: aligned and misaligned. -/
theorem test_fillSA2 :
    elemAfter .fillSA2 (block dflt 0 0x1000 3 1) 0x1008 4 = some 0x3EC3C406 ∧
      elemAfter .fillSA2 (block dflt 0 0x1004 3 1) 0x1004 4 = some 0x3D560307 := by decide
theorem test_fillSA1 :
    elemAfter .fillSA1 (block dflt 0 0x2000 3 1) 0x2004 4 = some 0x3F3401B6 ∧
      elemAfter .fillSA1 (block dflt 0 0x2004 3 1) 0x200C 4 = some 0x3F6AC3D7 := by decide
theorem test_fillSB :
    elemAfter .fillSB (block dflt 0 0x2000 2 7) 0x2004 4 = some 0x3ECA2856 ∧
      elemAfter .fillSB (block dflt 0 0x2004 2 0) 0x2008 4 = some 0x3E5B55C7 := by decide

/-! ## Submission, the window and the step -/

/-- 2.5: validation at submission: 0x00 accepted as a no-op (BUSY reads 1 until it completes), 0x22 ALIGN, 0x32 RANGE,
0x12 ILLEGAL. -/
theorem test_submit_errors :
    statusAfter 0x30000000#32 (block dflt 0 0x1003 2 0) = 0x22 ∧
      statusAfter 0x30000000#32 (block dflt 0 0xFFFFFFFFFFFFFFF8 2 0) = 0x32 ∧
      statusAfter 0x30000000#32 (block dflt 0 0xFFFFFFFFFFFFFFF8 1 0) = 0x01 ∧
      statusAfter 0x30000000#32 (block dflt 0 0x1003 0 0) = 0x01 ∧
      statusAfter 0x00000000#32 State.reset = 0x12 := by decide

/-- 10_state.md R38: CFG of the default configuration. -/
theorem test_cfgWord : cfgWord Config.default = 0x0000014000080000#64 := by decide

/-- A placed table word is performed by the very next step. -/
theorem test_withFetchWord :
    (nextOf (step ((block dflt 1 0 0 0).withFetchWord 32 0x01000000))).map
      (fun t => (t.outLo.toNat, t.inflight)) = some (0x0d603133dc4196d3, none) := by decide

/-- A write to ARG0 while BUSY = 1 is dropped and sets DROP (10_state.md R35). -/
theorem test_drop :
    (nextOf (step { (submit 0x01000000#32 State.reset) with events := [.write .w64 0x18#8 5#64] })).map
      (fun t => (t.arg0.toNat, t.statusWord.toNat)) = some (0, 5) := by decide

/-- A write of the upper half of FDST keeps the lower half (20_memory.md R50). -/
theorem test_half_write :
    (nextOf (step { block dflt 0 0x1008 0 0 with events := [.write .w32 0x44#8 0x7#64] })).map
      (fun t => t.fdst.toNat) = some 0x700001008 := by decide

/-- 95_test_vectors.md 2.1, the A2 states after steps 1 to 6 from seed 1: FSTATE at acceptance, after a mixing step, and
after the write of the second element (10_state.md R32). -/
theorem test_fstate :
    let s := accept (encode .fillDA2) .fillDA2 (block dflt 0 0x1000 2 1)
    s.fstate.toNat = 1 ∧
      (nextOf (step { s with events := [.mixTurn] })).map (fun t => t.fstate.toNat) = some 0x60bee2bee120fc16 ∧
      (nextOf (step { s with events := [.writerTurn 1] })).map (fun t => t.fstate.toNat) = some 0xc17dc57dc241f82b := by
  decide

/-- Log entry 27: a region of size 0 strictly inside the destination refuses nothing; one of size 1 there does. -/
theorem test_empty_region :
    (nextOf (exec .fillDA2 { block dflt 0 0x1000 2 1 with regions := [⟨0x1004, 0, .refuses⟩, ⟨0x1004, 0, .device⟩] })).map
        (fun t => t.statusWord.toNat) = some 0 ∧
      (nextOf (exec .fillDA2 { block dflt 0 0x1000 2 1 with regions := [⟨0x1004, 1, .refuses⟩] })).map
        (fun t => t.statusWord.toNat) = some 0x42 := by decide

/-! ## Witnesses: states that meet the hypotheses of each statement, clause by clause at the boundaries -/

/-- The block with command `i` in flight, its operands latched, and the script `es`. -/
def busyWith (c : Config) (i : Instr) (dst n seed : Nat) (es : List Event) : State :=
  { accept (encode i) i (block c 0 dst n seed) with events := es }

/-- The last two binary64 elements of a 12-bit address space. -/
def lastTwo (es : List Event) : State := busyWith { dflt with addrW := 12 } .fillDA2 0xFF0 2 1 es

/-- A region that begins right after, or at the last byte of, `[0x1000, 0x1010)`. -/
def besideIt (k : RegionKind) : Region := ⟨0x1010, 8, k⟩
def overlapsIt (k : RegionKind) : Region := ⟨0x100F, 1, k⟩

/-- Every build; a FILL in flight beside a device region; an idle block with a device region in the map. -/
theorem witness_ResetGivesTabulatedValues :
    (Config.default.wf = true ∧ (bufferedBy 1).wf = true ∧ (bufferedBy 2).wf = true ∧ (bufferedBy 64).wf = true) ∧
    (∃ s : State, s.cfg.wf = true ∧ s.events = .reset :: [] ∧ s.inflight ≠ none ∧ s.drop = true ∧
      (∀ r i b k, s.inflight = some r → decode r.word = .ok i → fillForm i = some (b, k) →
        FillAccepted s.cfg b r.ops → NoDeviceTarget s b) ∧ ∃ r ∈ s.regions, r.kind = .device) ∧
    (∃ s : State, s.cfg.wf = true ∧ s.events = .reset :: [] ∧ s.inflight = none ∧
      (∀ r i b k, s.inflight = some r → decode r.word = .ok i → fillForm i = some (b, k) →
        FillAccepted s.cfg b r.ops → NoDeviceTarget s b) ∧ ∃ r ∈ s.regions, r.kind = .device) :=
  ⟨by decide,
    ⟨{ lastTwo [.reset] with drop := true, regions := [besideIt .device] }, by decide, rfl, by decide, rfl,
      by intro r i b k _ _ _ _; cases b <;> (unfold NoDeviceTarget Overlaps; decide),
      ⟨besideIt .device, List.mem_singleton_self _, rfl⟩⟩,
    ⟨{ State.reset with events := [.reset], regions := [overlapsIt .device] }, by decide, rfl, rfl,
      (fun _ _ _ _ h => nomatch h), ⟨overlapsIt .device, List.mem_singleton_self _, rfl⟩⟩⟩

theorem witness_ResetStateSatisfiesInvariant :
    Config.default.wf = true ∧ (bufferedBy 64).wf = true ∧ Config.wf { dflt with fillUnroll := 255, addrW := 1 } = true := by
  decide

/-- A FILL whose last element ends at the end of the address space, with one element performed early. -/
theorem witness_ResetDuringFillLeavesWholeElements :
    (decode (encode .drawD) = .ok .drawD ∧ fillForm .drawD = none ∧
      (busyWith dflt .drawD 0 0 0 [.reset]).inflight = some ⟨encode .drawD, ⟨0#64, 0#64, 0#64, 0#64⟩, [], 0⟩) ∧
    ∃ (s : State) (r : InFlight), s.cfg.wf = true ∧ s.mem.wf = true ∧ s.events = .reset :: [] ∧ s.inflight = some r ∧
      decode r.word = .ok .fillDA2 ∧ fillForm .fillDA2 = some (.d, .a2) ∧ FillAccepted s.cfg .d r.ops ∧
      NoDeviceTarget s .d ∧ r.ops.fdst.toNat + r.ops.fcount.toNat * 8 = 2 ^ s.cfg.addrW :=
  ⟨⟨by decide, rfl, rfl⟩, markWritten (lastTwo [.reset]) 1, ⟨encode .fillDA2, ⟨0#64, 0xFF0#64, 2#64, 1#64⟩, [1], 0⟩,
    by decide, by decide, rfl, by decide, by decide, rfl, by unfold FillAccepted; decide,
    by intro r hr; exact absurd hr List.not_mem_nil, by decide⟩

theorem witness_IdleBlockWaits :
    State.reset.cfg.wf = true ∧ State.reset.inflight = none ∧ State.reset.events = [] := by decide

/-- The busy block satisfies the invariant. -/
theorem lastTwo_inv (es : List Event) : (lastTwo es).Inv := by
  refine ⟨rfl, ?_, ?_, rfl, rfl⟩
  · exact ⟨rfl, rfl⟩
  · intro r h
    obtain rfl : ⟨encode .fillDA2, ⟨0#64, 0xFF0#64, 2#64, 1#64⟩, [], 0⟩ = r := Option.some.inj h
    refine ⟨rfl, .fillDA2, by decide, rfl, ?_, ?_, List.nodup_nil, fun e he => absurd he List.not_mem_nil⟩
    · exact fun _ => ⟨rfl, rfl⟩
    · intro b k hf
      obtain ⟨rfl, rfl⟩ := Prod.mk.inj (Option.some.inj hf)
      exact ⟨rfl, fun _ => rfl, fun e he => absurd he List.not_mem_nil⟩

/-- A step that leaves the FILL in flight, and one that completes it. -/
theorem witness_EveryStepKeepsInvariant :
    ((lastTwo [.writerTurn 1]).Inv ∧ (nextOf (step (lastTwo [.writerTurn 1]))).isSome = true) ∧
    ((lastTwo []).Inv ∧ (nextOf (step (lastTwo []))).isSome = true) :=
  ⟨⟨lastTwo_inv _, by decide⟩, ⟨lastTwo_inv _, by decide⟩⟩

theorem witness_BuildParametersNeverChange :
    (nextOf (step { State.reset with events := [.write .w64 0x00#8 7#64] })).isSome = true ∧
      (nextOf (step (lastTwo [.reset]))).isSome = true := by decide

theorem witness_InFlightCommandHidesItsEffects :
    ∃ (s t : State) (r r' : InFlight), s.inflight = some r ∧ step s = .next t ∧ t.inflight = some r' ∧
      t.drop = true ∧ s.drop = false :=
  ⟨lastTwo [.write .w64 0x40#8 0#64], _, _, _, rfl, rfl, rfl, rfl, rfl⟩

/-- RSV not 0; the zero word; an undefined SUB just past the last row; an OP outside the map. -/
theorem witness_IllegalWordsAreRejected :
    ∃ s : State, s.cfg.wf = true ∧ s.inflight = none ∧ SubmitsNext s 0x30000001#32 [] ∧
      (∀ i : Instr, (0x30000001#32).toNat ≠ Reference.opcodeWord i) ∧
      (∀ i : Instr, (0x00000000#32).toNat ≠ Reference.opcodeWord i) ∧
      (∀ i : Instr, (0x11500000#32).toNat ≠ Reference.opcodeWord i) ∧
      (∀ i : Instr, (0xFF000000#32).toNat ≠ Reference.opcodeWord i) :=
  ⟨{ State.reset with events := [.write .w32 0x10#8 0x30000001#64] }, by decide, rfl,
    ⟨.w32, 0x30000001#64, .inr rfl, by decide, rfl⟩, by intro i; cases i <;> decide, by intro i; cases i <;> decide,
    by intro i; cases i <;> decide, by intro i; cases i <;> decide⟩

theorem witness_StepRunsTheCommandInFlight :
    (∃ (s : State) (r : InFlight), s.cfg.wf = true ∧ s.inflight = some r ∧ decode r.word = .ok .fillDA2 ∧
      Instr.wellFormed .fillDA2 = true ∧ s.events = .unitTurn :: []) ∧
    (lastTwo []).events = [] ∧
    (State.reset.cfg.wf = true ∧ decodeTableWord 32 0x11400000 = some .drawQ) :=
  ⟨⟨lastTwo [.unitTurn], _, by decide, rfl, by decide, rfl, rfl⟩, rfl, by decide⟩

/-- A command without validation, a FILL of none at a misaligned address, and a FILL at the end of the space. -/
theorem witness_LegalCommandIsAccepted :
    (∃ s : State, s.cfg.wf = true ∧ s.inflight = none ∧ SubmitsNext s (encode .seed) [] ∧
      Admissible s.cfg .seed s.liveOperands) ∧
    Admissible dflt .fillDA2 ⟨0#64, 0x1003#64, 0#64, 0#64⟩ ∧
    Admissible dflt .fillDA2 ⟨0#64, 0xFFFFFFFFFFFFFFF8#64, 1#64, 0#64⟩ :=
  ⟨⟨{ State.reset with events := [.write .w64 0x10#8 0x10000000#64] }, by decide, rfl,
      ⟨.w64, 0x10000000#64, .inl rfl, by decide, rfl⟩, by intro b k h; cases h⟩,
    fun _ _ _ => .inl rfl,
    fun b k h => by obtain ⟨rfl, rfl⟩ := Prod.mk.inj (Option.some.inj h); exact .inr (by unfold FillAccepted; decide)⟩

/-- ALIGN, and RANGE by one element past the end of the space. -/
theorem witness_InvalidFillIsRejectedAtSubmission :
    (∃ s : State, s.cfg.wf = true ∧ s.inflight = none ∧ SubmitsNext s (encode .fillDA2) [] ∧
      fillForm .fillDA2 = some (.d, .a2) ∧ 0 < s.fcount.toNat ∧ s.fdst.toNat % elemBytes .d ≠ 0) ∧
    (∃ s : State, s.cfg.wf = true ∧ s.inflight = none ∧ SubmitsNext s (encode .fillSB) [] ∧
      fillForm .fillSB = some (.s, .b) ∧ 0 < s.fcount.toNat ∧ s.fdst.toNat % elemBytes .s = 0 ∧
      2 ^ s.cfg.addrW < s.fdst.toNat + s.fcount.toNat * elemBytes .s) :=
  ⟨⟨{ block dflt 0 0x1004 1 0 with events := [.write .w64 0x10#8 0x30000000#64] }, by decide, rfl,
      ⟨.w64, 0x30000000#64, .inl rfl, by decide, rfl⟩, rfl, by decide, by decide⟩,
    ⟨{ block { dflt with addrW := 32 } 0 0xFFFFFFFC 2 0 with events := [.write .w64 0x10#8 0x31200000#64] }, by decide,
      rfl, ⟨.w64, 0x31200000#64, .inl rfl, by decide, rfl⟩, rfl, by decide, by decide, by decide⟩⟩

theorem witness_SubmitThenCompleteEqualsExec :
    ∃ s : State, s.cfg.wf = true ∧ s.inflight = none ∧ (0x20000000#64).extractLsb' 0 32 = encode .cvtD ∧
      s.events = .write .w32 0x10#8 0x20000000#64 :: .unitTurn :: [] ∧ Admissible s.cfg .cvtD s.liveOperands :=
  ⟨{ State.reset with events := [.write .w32 0x10#8 0x20000000#64, .unitTurn] }, by decide, rfl, by decide, rfl,
    by intro b k h; cases h⟩

theorem witness_AcceptedCommandCompletes :
    ∃ s : State, s.Inv ∧ s.Calm ∧ s.inflight ≠ none ∧ s.events.length = 2 :=
  ⟨lastTwo [.read .w64 0x08#8, .writerTurn 0], lastTwo_inv _,
    ⟨by decide, fun r hr => absurd hr List.not_mem_nil⟩, by decide, rfl⟩

theorem witness_ErrorFlagMasksNothing :
    (nextOf (exec .drawD { State.reset with errs := false })).isSome = true ∧
      exec .fillDA2 { lastTwo [] with errs := false, regions := [⟨0xFFF, 1, .device⟩] } = .refused .deviceTarget :=
  ⟨by decide, rfl⟩

/-- The first and the last slot of the window, whole and by halves. -/
theorem witness_ReadsAnswerAndChangeNothing :
    State.reset.cfg.wf = true ∧ mmioSupported .w64 0x00#8 = true ∧ mmioSupported .w32 0x3C#8 = true ∧
      mmioSupported .w64 0xF8#8 = true ∧ mmioSupported .w32 0xFC#8 = true ∧
      ∃ s : State, s.events = .read .w32 0x3C#8 :: [] :=
  ⟨by decide, by decide, by decide, by decide, by decide, { State.reset with events := [.read .w32 0x3C#8] }, rfl⟩

theorem witness_WritesWhileBusyAreDropped :
    ∃ s : State, s.cfg.wf = true ∧ s.inflight ≠ none ∧ mmioSupported .w32 0x1C#8 = true ∧
      s.events = .write .w32 0x1C#8 1#64 :: [] ∧ (0x1C#8).toNat / 8 = 3 ∧ (0x44#8).toNat / 8 = 8 ∧
      (0x48#8).toNat / 8 = 9 ∧ (0x54#8).toNat / 8 = 10 :=
  ⟨lastTwo [.write .w32 0x1C#8 1#64], by decide, by decide, by decide, rfl, by decide⟩

theorem witness_OperandWritesChangeOnlyTheirPart :
    ∃ s : State, s.cfg.wf = true ∧ s.inflight = none ∧ mmioSupported .w32 0x1C#8 = true ∧
      s.events = .write .w32 0x1C#8 1#64 :: [] ∧ (0x1C#8).toNat / 8 = 3 ∧ (0x40#8).toNat / 8 = 8 ∧
      (0x4C#8).toNat / 8 = 9 ∧ (0x50#8).toNat / 8 = 10 :=
  ⟨{ State.reset with events := [.write .w32 0x1C#8 1#64] }, by decide, rfl, by decide, rfl, by decide⟩

theorem witness_StatusWriteClearsNamedFlags :
    ∃ s : State, s.cfg.wf = true ∧ s.events = .write .w32 0x08#8 6#64 :: [] ∧ s.inflight ≠ none ∧ s.drop = true ∧
      s.errs = true :=
  ⟨{ lastTwo [.write .w32 0x08#8 6#64] with drop := true, errs := true }, by decide, rfl, by decide, rfl, rfl⟩

/-- Slot 0, slots 4 and 7, and the slots from 11 on. -/
theorem witness_ReadOnlyWritesAreIgnored :
    ∃ s : State, s.cfg.wf = true ∧ mmioSupported .w64 0x20#8 = true ∧ s.events = .write .w64 0x20#8 1#64 :: [] ∧
      (0x00#8).toNat / 8 = 0 ∧ (0x20#8).toNat / 8 = 4 ∧ (0x3C#8).toNat / 8 = 7 ∧ (0x58#8).toNat / 8 = 11 ∧
      11 ≤ (0xFC#8).toNat / 8 :=
  ⟨{ State.reset with events := [.write .w64 0x20#8 1#64] }, by decide, by decide, rfl, by decide⟩

/-- 0x14 on an idle block, and 0x0C while BUSY = 1. -/
theorem witness_UpperHalfWritesOfCmdAndStatusAreIgnored :
    (∃ s : State, s.cfg.wf = true ∧ s.inflight = none ∧ s.events = .write .w32 0x14#8 0x01000000#64 :: []) ∧
    (∃ s : State, s.cfg.wf = true ∧ s.inflight ≠ none ∧ s.events = .write .w32 0x0C#8 6#64 :: []) :=
  ⟨⟨{ State.reset with events := [.write .w32 0x14#8 0x01000000#64] }, by decide, rfl, rfl⟩,
    ⟨lastTwo [.write .w32 0x0C#8 6#64], by decide, by decide, rfl⟩⟩

theorem witness_UnsupportedAccessesAreRefused :
    (∃ s : State, s.cfg.wf = true ∧ s.events = .write .w8 0x10#8 0#64 :: []) ∧
    (∃ s : State, s.events = .read .w16 0x10#8 :: []) ∧ (0x12#8).toNat % 4 ≠ 0 ∧ (0x14#8).toNat % 8 ≠ 0 ∧
    (State.resetOf (bufferedBy 65)).cfg.wf = false :=
  ⟨⟨{ State.reset with events := [.write .w8 0x10#8 0#64] }, by decide, rfl⟩,
    ⟨{ State.reset with events := [.read .w16 0x10#8] }, rfl⟩, by decide, by decide, by decide⟩

theorem witness_SeedSetsStateAndExhaustsBuffer : (halfDrawn 4).cfg.wf = true ∧ State.reset.cfg.wf = true := by decide

theorem witness_UnbufferedDraws :
    State.reset.cfg.engUnroll ≤ 1 ∧ (State.resetOf (bufferedBy 1)).cfg.engUnroll ≤ 1 := by decide

/-- A draw that ends exactly at the buffer's end and one that would end a byte past it, for each width at N = 2; the
largest buffer, exhausted after reset. -/
theorem witness_BufferedDraws :
    (halfDrawn 15).cfg.wf = true ∧ 1 < (halfDrawn 15).cfg.engUnroll ∧ (halfDrawn 15).cursor.toNat + 1 = 8 * 2 ∧
      (halfDrawn 14).cursor.toNat + 2 = 8 * 2 ∧ (halfDrawn 12).cursor.toNat + 4 = 8 * 2 ∧
      (halfDrawn 8).cursor.toNat + 8 = 8 * 2 ∧ (halfDrawn 0).cursor.toNat + 16 = 8 * 2 ∧
      8 * 2 < (halfDrawn 16).cursor.toNat + 1 ∧ 8 * 2 < (halfDrawn 15).cursor.toNat + 2 ∧
      8 * 2 < (halfDrawn 13).cursor.toNat + 4 ∧ 8 * 2 < (halfDrawn 9).cursor.toNat + 8 ∧
      8 * 2 < (halfDrawn 1).cursor.toNat + 16 ∧ (State.resetOf (bufferedBy 64)).cfg.wf = true ∧
      8 * 64 < (State.resetOf (bufferedBy 64)).cursor.toNat + 1 := by decide

theorem witness_EightByteDrawsDoNotDependOnBuffering :
    ∃ s s' : State, s.cfg.wf = true ∧ s'.cfg.wf = true ∧ s.cfg.engStrat = s'.cfg.engStrat ∧
      substSeed s.cfg s.operands.arg0 = substSeed s'.cfg s'.operands.arg0 ∧ s.cfg.engUnroll ≠ s'.cfg.engUnroll ∧
      (nextOf (exec .seed s)).isSome = true ∧ (nextOf (exec .seed s')).isSome = true :=
  ⟨block dflt 0 0 0 0, block (bufferedBy 3) 0x539 0 0 0, by decide, by decide, rfl, by decide, by decide, by decide,
    by decide⟩

/-- The smallest and the largest positive finite values, and a value that is not representable. -/
theorem witness_RoundingIsNearestTiesToEven :
    ((1 : Nat) : ℚ) * 2 ^ (-149 : Int) ≤ floatValue 24 8 (infEncoding binary32 - 1) ∧
      ((2 ^ 24 - 1 : Nat) : ℚ) * 2 ^ (104 : Int) ≤ floatValue 24 8 (infEncoding binary32 - 1) ∧
      ((2 ^ 24 + 1 : Nat) : ℚ) * 2 ^ (0 : Int) ≤ floatValue 24 8 (infEncoding binary32 - 1) := by
  have h : infEncoding binary32 - 1 = 0x7F7FFFFF := by decide
  rw [h]
  refine ⟨?_, ?_, ?_⟩ <;> norm_num [floatValue]

theorem witness_IntegerToFloatIsExact : 2 ^ 53 - 1 < 2 ^ 53 ∧ 2 ^ 24 - 1 < 2 ^ 24 := by decide

theorem witness_RangeOfTheConversions :
    (0xFFFFFFFFFFFFEFFF#64).toNat < 0xFFFFFFFFFFFFF000 ∧ (0xFFFFFFFFFFFFE800#64).toNat / 2 ^ 11 = 2 ^ 53 - 3 ∧
      (0xFFFFF7FF#32).toNat < 0xFFFFF800 ∧ (0xFFFFF000#32).toNat / 2 ^ 11 = 2 ^ 21 - 2 ∧
      (0#64).toNat ≤ (0xFFFFFFFFFFFFFFFF#64).toNat ∧ (0#32).toNat ≤ (0xFFFFFFFF#32).toNat := by decide

theorem witness_ConversionsAvoidSpecialValues :
    0x800 ≤ (0x800#64).toNat ∧ 0x800 ≤ (0x800#32).toNat ∧ 2 ^ 43 ≤ (0x80000000000#64).toNat := by decide

/-- A busy FILL.D of two elements whose second was performed early. -/
def secondDone (rs : List Region) (es : List Event) : State :=
  { markWritten (busyWith dflt .fillDA2 0x1000 2 1 es) 1 with regions := rs }

/-- FILL.D with a device region beside the destination; and with a refusing region on the element performed early. -/
theorem witness_FillDWritesItsElements :
    (∃ s : State, s.mem.wf = true ∧ FillAccepted s.cfg .d s.operands ∧ WritableTarget s .d ∧
      ∃ r ∈ s.regions, r.kind = .device) ∧
    (∃ s : State, s.mem.wf = true ∧ FillAccepted s.cfg .d s.operands ∧ WritableTarget s .d ∧ 0 ∉ s.written ∧
      1 ∈ s.written ∧ RefusedElement s .d 1) :=
  ⟨⟨secondDone [besideIt .device] [], by decide, by unfold FillAccepted; decide,
      by unfold WritableTarget NoDeviceTarget RefusedElement Overlaps; decide,
      ⟨besideIt .device, List.mem_singleton_self _, rfl⟩⟩,
    ⟨secondDone [overlapsIt .refuses] [], by decide, by unfold FillAccepted; decide,
      by unfold WritableTarget NoDeviceTarget RefusedElement Overlaps; decide, by decide, by decide,
      by unfold RefusedElement Overlaps; decide⟩⟩

/-- FILL.S with the fix-up, ending at the end of the space; without it; and with a refusing region on an element
performed early. -/
theorem witness_FillSWritesItsElements :
    (∃ s : State, s.mem.wf = true ∧ FillAccepted s.cfg .s s.operands ∧ WritableTarget s .s ∧
      s.operands.fdst.toNat % 8 = 4 ∧ s.operands.fdst.toNat + s.operands.fcount.toNat * 4 = 2 ^ s.cfg.addrW) ∧
    (∃ s : State, s.mem.wf = true ∧ FillAccepted s.cfg .s s.operands ∧ WritableTarget s .s ∧
      s.operands.fdst.toNat % 8 = 0) ∧
    (∃ s : State, s.mem.wf = true ∧ FillAccepted s.cfg .s s.operands ∧ WritableTarget s .s ∧ 3 ∈ s.written ∧
      RefusedElement s .s 3) :=
  ⟨⟨block { dflt with addrW := 12 } 0 0xFFC 1 1, by decide, by unfold FillAccepted; decide,
      by unfold WritableTarget NoDeviceTarget RefusedElement Overlaps; decide, by decide, by decide⟩,
    ⟨block dflt 0 0x1000 3 1, by decide, by unfold FillAccepted; decide,
      by unfold WritableTarget NoDeviceTarget RefusedElement Overlaps; decide, by decide⟩,
    ⟨{ markWritten (busyWith dflt .fillSB 0x1000 4 1 []) 3 with regions := [overlapsIt .refuses] }, by decide,
      by unfold FillAccepted; decide, by unfold WritableTarget NoDeviceTarget RefusedElement Overlaps; decide,
      by decide, by unfold RefusedElement Overlaps; decide⟩⟩

theorem witness_ElementsFollowTheWordStream :
    (fillJob dflt .d .a2 ⟨0#64, 0x1000#64, 1#64, 1#64⟩).size = .d ∧
      (fillJob dflt .s .a2 ⟨0#64, 0x1000#64, 1#64, 1#64⟩).dst % 8 = 0 ∧
      (fillJob dflt .s .a2 ⟨0#64, 0x1004#64, 1#64, 1#64⟩).dst % 8 = 4 := by decide

theorem witness_MisalignedFillDropsTheFirstElement : 0x1004 % 8 = 4 ∧ 0x1000 % 8 = 0 ∧ 4 < 5 := by decide

/-- A seed whose first word is at the top of the range, and one whose first word is not. -/
theorem witness_ElementsLieInTheUnitInterval :
    0xFFFFFFFFFFFFF000 ≤ (streamWord .b 0x445a8dfe8ea472f9#64 0).toNat ∧
      (fillJob pow2 .s .b ⟨0#64, 0x1000#64, 1#64, 1#64⟩).scale = .pow2 ∧
      (fillJob dflt .d .b ⟨0#64, 0x1000#64, 1#64, 1#64⟩).scale = .doc ∧
      (streamWord .a2 0x9f411d411edf03eb#64 0).toNat < 0xFFFFFFFFFFFFF000 ∧
      0xFFFFF800 ≤ halfOf ⟨.s, .b, 0x1000, 2, 0x445a8dfe8ea472f9#64, .doc⟩ 1 ∧
      0xFFFFF800 ≤ halfOf ⟨.s, .b, 0x1004, 1, 0x445a8dfe8ea472f9#64, .doc⟩ 0 ∧
      halfOf ⟨.s, .a2, 0x1000, 1, 0x9f411d411edf03eb#64, .doc⟩ 0 < 0xFFFFF800 := by decide

theorem witness_EmptyFillIsNoop :
    (block dflt 0 0x1003 0 0).operands.fcount = 0#64 ∧ (busyWith dflt .fillSB 0x1003 0 0 []).operands.fcount = 0#64 := by
  decide

theorem witness_FillRejectsBadDestinations :
    0 < (block dflt 0 0x1004 1 0).operands.fcount.toNat ∧
      (block dflt 0 0x1004 1 0).operands.fdst.toNat % elemBytes .d ≠ 0 ∧
      (block dflt 0 0x1002 1 0).operands.fdst.toNat % elemBytes .s ≠ 0 ∧
      (block dflt 0 0xFFFFFFFFFFFFFFF8 2 0).operands.fdst.toNat % elemBytes .d = 0 ∧
      2 ^ 64 < (block dflt 0 0xFFFFFFFFFFFFFFF8 2 0).operands.fdst.toNat + 2 * elemBytes .d := by decide

/-- The last byte of the last element is refused. -/
theorem witness_RefusedWriteEndsFillWithBus :
    ∃ s : State, s.mem.wf = true ∧ FillAccepted s.cfg .d s.operands ∧ FillAccepted s.cfg .s s.operands ∧
      NoDeviceTarget s .d ∧ NoDeviceTarget s .s ∧
      (∃ e, e < s.operands.fcount.toNat ∧ e ∉ s.written ∧ RefusedElement s .d e) ∧
      (∃ e, e < s.operands.fcount.toNat ∧ e ∉ s.written ∧ RefusedElement s .s e) :=
  ⟨{ block dflt 0 0x1000 4 1 with regions := [overlapsIt .refuses] }, by decide, by unfold FillAccepted; decide,
    by unfold FillAccepted; decide, by unfold NoDeviceTarget Overlaps; decide, by unfold NoDeviceTarget Overlaps; decide,
    ⟨1, by decide, by decide, by unfold RefusedElement Overlaps; decide⟩,
    ⟨3, by decide, by decide, by unfold RefusedElement Overlaps; decide⟩⟩

theorem witness_DeviceTargetIsRefused :
    ∃ s : State, FillAccepted s.cfg .d s.operands ∧ FillAccepted s.cfg .s s.operands ∧
      (∃ r ∈ s.regions, r.kind = .device ∧ Overlaps r s.operands.fdst.toNat (s.operands.fcount.toNat * elemBytes .d)) ∧
      (∃ r ∈ s.regions, r.kind = .device ∧ Overlaps r s.operands.fdst.toNat (s.operands.fcount.toNat * elemBytes .s)) :=
  ⟨{ block dflt 0 0x1000 4 1 with regions := [overlapsIt .device] }, by unfold FillAccepted; decide,
    by unfold FillAccepted; decide,
    ⟨overlapsIt .device, List.mem_singleton_self _, rfl, by decide, by decide⟩,
    ⟨overlapsIt .device, List.mem_singleton_self _, rfl, by decide, by decide⟩⟩

theorem witness_FillIsIndependentOfTheEngine :
    fillForm .fillSA1 = some (.s, .a1) ∧ (nextOf (exec .fillSA1 (block dflt 0 0x1000 2 1))).isSome = true := by decide

/-- Scalar and vector configurations, with the smallest tail buffer. -/
theorem witness_DatapathScheduleGivesTheElements :
    dflt.wf = true ∧ Config.wf { dflt with vecEn := true, vecLanes64 := 4 } = true ∧ dflt.fillUnroll ≤ 8 ∧
      Config.wf { dflt with fillUnroll := 1 } = true := by decide

/-- Element 0 while the other element, performed early, lies in a refusing region. -/
theorem witness_WriterTurnWritesOneElement :
    ∃ (s : State) (r : InFlight), s.cfg.wf = true ∧ s.mem.wf = true ∧ s.events = .writerTurn 0 :: [] ∧
      s.inflight = some r ∧ decode r.word = .ok .fillDA2 ∧ fillForm .fillDA2 = some (.d, .a2) ∧
      FillAccepted s.cfg .d r.ops ∧ NoDeviceTarget s .d ∧ ¬ RefusedElement s .d 0 ∧ 0 < r.ops.fcount.toNat ∧
      0 ∉ r.written ∧ s.fstate.toNat = stateAfter .a2 1 r.mixed :=
  ⟨secondDone [overlapsIt .refuses] [.writerTurn 0], ⟨encode .fillDA2, ⟨0#64, 0x1000#64, 2#64, 1#64⟩, [1], 0⟩,
    by decide, by decide, rfl, by decide, by decide, rfl, by unfold FillAccepted; decide,
    by unfold NoDeviceTarget Overlaps; decide, by unfold RefusedElement Overlaps; decide, by decide, by decide,
    by decide⟩

theorem witness_RefusedWriterTurnEndsFillWithBus :
    ∃ (s : State) (r : InFlight), s.cfg.wf = true ∧ s.mem.wf = true ∧ s.events = .writerTurn 1 :: [] ∧
      s.inflight = some r ∧ decode r.word = .ok .fillDA2 ∧ fillForm .fillDA2 = some (.d, .a2) ∧
      FillAccepted s.cfg .d r.ops ∧ NoDeviceTarget s .d ∧ RefusedElement s .d 1 ∧ 1 < r.ops.fcount.toNat ∧
      1 ∉ r.written :=
  ⟨{ busyWith dflt .fillDA2 0x1000 2 1 [.writerTurn 1] with regions := [overlapsIt .refuses] },
    ⟨encode .fillDA2, ⟨0#64, 0x1000#64, 2#64, 1#64⟩, [], 0⟩, by decide, by decide, rfl, by decide, by decide, rfl,
    by unfold FillAccepted; decide, by unfold NoDeviceTarget Overlaps; decide,
    by unfold RefusedElement Overlaps; decide, by decide, by decide⟩

/-- A FILL with elements, a FILL of none, another command, and an idle block. -/
theorem witness_MixingTurnAdvancesFstate :
    (∃ (s : State) (r : InFlight), s.cfg.wf = true ∧ s.events = .mixTurn :: [] ∧ s.inflight = some r ∧
      decode r.word = .ok .fillDA2 ∧ fillForm .fillDA2 = some (.d, .a2) ∧ FillAccepted s.cfg .d r.ops) ∧
    (∃ (s : State) (r : InFlight), s.cfg.wf = true ∧ s.events = .mixTurn :: [] ∧ s.inflight = some r ∧
      decode r.word = .ok .fillSB ∧ r.ops.fcount = 0#64) ∧
    (∃ (s : State) (r : InFlight), s.cfg.wf = true ∧ s.events = .mixTurn :: [] ∧ s.inflight = some r ∧
      decode r.word = .ok .drawQ ∧ fillForm .drawQ = none) ∧
    (∃ s : State, s.cfg.wf = true ∧ s.events = .mixTurn :: [] ∧ s.inflight = none) :=
  ⟨⟨lastTwo [.mixTurn], _, by decide, rfl, rfl, by decide, rfl, by unfold FillAccepted; decide⟩,
    ⟨busyWith dflt .fillSB 0x1003 0 0 [.mixTurn], _, by decide, rfl, rfl, by decide, by decide⟩,
    ⟨busyWith dflt .drawQ 0 0 0 [.mixTurn], _, by decide, rfl, rfl, by decide, rfl⟩,
    ⟨{ State.reset with events := [.mixTurn] }, by decide, rfl, rfl⟩⟩

/-- Turns out of order, one of them repeated and one of no element, with a mixing step among them. -/
theorem witness_AnyOrderOfElementWritesGivesTheSameState :
    ∃ (s : State) (r : InFlight), s.cfg.wf = true ∧ s.mem.wf = true ∧ s.inflight = some r ∧
      decode r.word = .ok .fillDA2 ∧ fillForm .fillDA2 = some (.d, .a2) ∧ FillAccepted s.cfg .d r.ops ∧
      WritableTarget s .d ∧
      (∀ e ∈ [Event.writerTurn 1, .mixTurn, .writerTurn 0, .writerTurn 1, .writerTurn 2],
        e = .mixTurn ∨ ∃ x, e = .writerTurn x) ∧
      s.events = [Event.writerTurn 1, .mixTurn, .writerTurn 0, .writerTurn 1, .writerTurn 2] ++ .unitTurn :: [] :=
  ⟨lastTwo [.writerTurn 1, .mixTurn, .writerTurn 0, .writerTurn 1, .writerTurn 2, .unitTurn],
    ⟨encode .fillDA2, ⟨0#64, 0xFF0#64, 2#64, 1#64⟩, [], 0⟩, by decide, by decide, by decide, by decide, rfl,
    by unfold FillAccepted; decide, by unfold WritableTarget NoDeviceTarget RefusedElement Overlaps; decide,
    by simp, rfl⟩

end Sys2Proof.Tests
end

/-! The rounding of the conversions (00_scope.md R18). The idea: the finite encodings, in order, have increasing values,
and adding one to a significand is adding one to the encoding, the carry into the exponent field included. So rounding
the significand to an integer is rounding the value to one of two successive encodings. -/

namespace Sys2Proof.Rounding

open Sys2Proof Sys2Proof.Machine Sys2Proof.Reference

variable {f : FloatFormat}

/-! ## The encodings as significands on top of exponent fields -/

/-- The model's reading of a finite encoding and the statements' own formula agree. -/
theorem floatValue_eq_unpack (hp : 1 ≤ f.prec) (enc : Nat) :
    floatValue f.prec f.expBits enc = ((unpack f enc).1 : ℚ) * 2 ^ (unpack f enc).2 := by
  have hfrac : (2 : ℚ) ^ (f.prec - 1) = 2 ^ ((f.prec : ℤ) - 1) := by
    rw [← zpow_natCast, Nat.cast_sub hp, Nat.cast_one]
  by_cases hE : enc / 2 ^ (f.prec - 1) = 0
  · have hexp : (1 : ℤ) - (2 ^ (f.expBits - 1) - 1) = minExp f + (f.prec - 1) := by
      unfold minExp; ring
    simp only [floatValue, unpack, hE, if_true, hexp, zpow_add₀ (two_ne_zero' ℚ) (minExp f), hfrac]
    field_simp
  · have hexp : ((enc / 2 ^ (f.prec - 1) : Nat) : ℤ) - (2 ^ (f.expBits - 1) - 1) =
        minExp f + (enc / 2 ^ (f.prec - 1) - 1 : Nat) + (f.prec - 1) := by
      rw [Nat.cast_sub (Nat.one_le_iff_ne_zero.mpr hE)]; unfold minExp; push_cast; ring
    simp only [floatValue, unpack, if_neg hE, hexp, zpow_add₀ (two_ne_zero' ℚ) _ ((f.prec : ℤ) - 1), ← hfrac]
    push_cast
    field_simp
    ring

theorem unpack_subnormal {n : Nat} (hn : n < 2 ^ (f.prec - 1)) : unpack f n = (n, minExp f) := by
  simp [unpack, Nat.div_eq_of_lt hn, Nat.mod_eq_of_lt hn]

theorem unpack_normal {k n : Nat} (hlo : 2 ^ (f.prec - 1) ≤ n) (hhi : n < 2 * 2 ^ (f.prec - 1)) :
    unpack f (k * 2 ^ (f.prec - 1) + n) = (n, minExp f + k) := by
  obtain ⟨frac, rfl⟩ := Nat.exists_eq_add_of_le hlo
  have hfrac : frac < 2 ^ (f.prec - 1) := by omega
  have hfields : k * 2 ^ (f.prec - 1) + (2 ^ (f.prec - 1) + frac) = frac + 2 ^ (f.prec - 1) * (k + 1) := by ring
  have hE : (frac + 2 ^ (f.prec - 1) * (k + 1)) / 2 ^ (f.prec - 1) = k + 1 := by
    rw [Nat.add_mul_div_left _ _ (Nat.two_pow_pos _), Nat.div_eq_of_lt hfrac, Nat.zero_add]
  rw [hfields, Nat.add_comm _ frac]
  simp [unpack, hE, Nat.mod_eq_of_lt hfrac]

/-- A significand `n` in units of the last place `2 ^ (minExp f + k)`, added to the exponent field `k`, encodes
`n * 2 ^ (minExp f + k)`; the bound takes in the carry `n = 2 ^ prec`, which raises the exponent. -/
theorem floatValue_significand (hp : 1 ≤ f.prec) {k n : Nat} (hk : k = 0 ∨ 2 ^ (f.prec - 1) ≤ n)
    (hn : n ≤ 2 * 2 ^ (f.prec - 1)) :
    floatValue f.prec f.expBits (k * 2 ^ (f.prec - 1) + n) = (n : ℚ) * 2 ^ (minExp f + k) := by
  rw [floatValue_eq_unpack hp]
  rcases hn.lt_or_eq with hlt | rfl
  · by_cases hlo : 2 ^ (f.prec - 1) ≤ n
    · rw [unpack_normal hlo hlt]
    · obtain rfl : k = 0 := hk.resolve_right hlo
      rw [Nat.zero_mul, Nat.zero_add, unpack_subnormal (Nat.lt_of_not_le hlo), Nat.cast_zero, add_zero]
  · have hcarry : k * 2 ^ (f.prec - 1) + 2 * 2 ^ (f.prec - 1) = (k + 1) * 2 ^ (f.prec - 1) + 2 ^ (f.prec - 1) := by
      ring
    rw [hcarry, unpack_normal le_rfl (by have := Nat.two_pow_pos (f.prec - 1); omega)]
    push_cast
    rw [← add_assoc, zpow_add_one₀ two_ne_zero]
    ring

/-- Every encoding is a significand of at most `prec` bits on top of an exponent field. -/
theorem exists_significand (f : FloatFormat) (enc : Nat) : ∃ k n, enc = k * 2 ^ (f.prec - 1) + n ∧
    (k = 0 ∨ 2 ^ (f.prec - 1) ≤ n) ∧ n < 2 * 2 ^ (f.prec - 1) := by
  have hdiv := Nat.div_add_mod' enc (2 ^ (f.prec - 1))
  have hmod := Nat.mod_lt enc (Nat.two_pow_pos (f.prec - 1))
  rcases hE : enc / 2 ^ (f.prec - 1) with _ | k
  · exact ⟨0, enc, by simp, .inl rfl, by rw [hE] at hdiv; omega⟩
  · refine ⟨k, 2 ^ (f.prec - 1) + enc % 2 ^ (f.prec - 1), ?_, .inr (Nat.le_add_right ..), by omega⟩
    rw [hE, Nat.succ_mul] at hdiv
    omega

theorem floatValue_strictMono (hp : 1 ≤ f.prec) : StrictMono (floatValue f.prec f.expBits) := by
  refine strictMono_nat_of_lt_succ fun enc => ?_
  obtain ⟨k, n, rfl, hk, hn⟩ := exists_significand f enc
  rw [Nat.add_assoc, floatValue_significand hp hk hn.le,
    floatValue_significand hp (hk.imp_right Nat.le_succ_of_le) hn]
  gcongr
  exact Nat.lt_succ_self n

/-! ## Rounding between two neighbours -/

/-- In the increasing sequence `v`, the index `x` rounds `r`: it is the nearer of the two neighbours `v q` and
`v (q + 1)` that `r` lies between, and even where `r` is halfway. -/
def RoundsTo (v : Nat → ℚ) (r : ℚ) (x : Nat) : Prop :=
  ∃ q, v q ≤ r ∧ r < v (q + 1) ∧
    ((x = q ∧ (2 * r < v q + v (q + 1) ∨ 2 * r = v q + v (q + 1) ∧ x % 2 = 0)) ∨
      (x = q + 1 ∧ (v q + v (q + 1) < 2 * r ∨ 2 * r = v q + v (q + 1) ∧ x % 2 = 0)))

theorem roundsTo_self {v : Nat → ℚ} (hv : StrictMono v) (n : Nat) : RoundsTo v (v n) n := by
  have hlt := hv (Nat.lt_succ_self n)
  exact ⟨n, le_rfl, hlt, .inl ⟨rfl, .inl (by linarith)⟩⟩

/-- Rounding does not pass a member of the sequence: a value up to the largest finite number stays finite. -/
theorem RoundsTo.le_of_le {v : Nat → ℚ} (hv : StrictMono v) {r : ℚ} {x b : Nat} (h : RoundsTo v r x)
    (hb : r ≤ v b) : x ≤ b := by
  obtain ⟨q, hlo, -, ⟨rfl, -⟩ | ⟨rfl, hup⟩⟩ := h
  · exact hv.le_iff_le.mp (hlo.trans hb)
  · have hlt := hv (Nat.lt_succ_self q)
    have hqr : v q < r := by rcases hup with hup | ⟨hup, -⟩ <;> linarith
    exact hv.lt_iff_lt.mp (hqr.trans_le hb)

/-- No other member of the sequence is as near, but for the other neighbour of a halfway value. -/
theorem RoundsTo.nearest {v : Nat → ℚ} (hv : StrictMono v) {r : ℚ} {x y : Nat} (h : RoundsTo v r x)
    (hy : y ≠ x) : |v x - r| < |v y - r| ∨ (|v x - r| = |v y - r| ∧ x % 2 = 0) := by
  obtain ⟨q, hlo, hhi, hx⟩ := h
  have below {z : Nat} (hz : z ≤ q) : |v z - r| = r - v z := by
    rw [abs_sub_comm, abs_of_nonneg (by linarith [hv.monotone hz])]
  have above {z : Nat} (hz : q + 1 ≤ z) : |v z - r| = v z - r :=
    abs_of_nonneg (by linarith [hv.monotone hz])
  obtain ⟨rfl, hmid⟩ | ⟨rfl, hmid⟩ := hx
  · rcases hy.lt_or_gt with hlt | hgt
    · rw [below le_rfl, below hlt.le]
      exact .inl (by linarith [hv hlt])
    · have hle := hv.monotone (Nat.succ_le_of_lt hgt)
      rw [below le_rfl, above hgt]
      rcases hmid with hmid | ⟨hmid, heven⟩
      · exact .inl (by linarith)
      · exact (show r - v x ≤ v y - r by linarith).lt_or_eq.imp_right (⟨·, heven⟩)
  · rcases hy.lt_or_gt with hlt | hgt
    · have hle := hv.monotone (Nat.le_of_lt_succ hlt)
      rw [above le_rfl, below (Nat.le_of_lt_succ hlt)]
      rcases hmid with hmid | ⟨hmid, heven⟩
      · exact .inl (by linarith)
      · exact (show v (q + 1) - r ≤ r - v y by linarith).lt_or_eq.imp_right (⟨·, heven⟩)
    · rw [above le_rfl, above hgt.le]
      exact .inl (by linarith [hv hgt])

/-- Rounding commutes with a passage to another sequence that keeps the neighbours' order, up to a scale `u`, and the
parity of the index. -/
theorem RoundsTo.scale {v v' : Nat → ℚ} {r u : ℚ} {x c : Nat} (h : RoundsTo v r x) (hu : 0 < u) (hc : c % 2 = 0)
    (hv' : ∀ q, v q ≤ r → r < v (q + 1) → v' (c + q) = v q * u ∧ v' (c + (q + 1)) = v (q + 1) * u) :
    RoundsTo v' (r * u) (c + x) := by
  obtain ⟨q, hlo, hhi, hx⟩ := h
  obtain ⟨hq, hq1⟩ := hv' q hlo hhi
  have heven : (c + x) % 2 = x % 2 := by omega
  refine ⟨c + q, ?_, ?_, ?_⟩
  · rw [hq]; gcongr
  · rw [Nat.add_assoc, hq1]; gcongr
  · rw [Nat.add_assoc c q 1, hq, hq1, heven, ← add_mul, ← mul_assoc, mul_lt_mul_iff_left₀ hu,
      mul_lt_mul_iff_left₀ hu, mul_left_inj' hu.ne', Nat.add_left_cancel_iff, Nat.add_left_cancel_iff]
    exact hx

/-- The three branches of `roundShift`: below, at and above halfway. -/
theorem roundsTo_roundShift (m k : Nat) : RoundsTo Nat.cast ((m : ℚ) / 2 ^ k) (roundShift m k) := by
  have hpow : (0 : ℚ) < 2 ^ k := by positivity
  have hdiv : (m : ℚ) / 2 ^ k = (m / 2 ^ k : Nat) + (m % 2 ^ k : Nat) / 2 ^ k := by
    rw [div_eq_iff hpow.ne', add_mul, div_mul_cancel₀ _ hpow.ne']
    exact_mod_cast (Nat.div_add_mod' m (2 ^ k)).symm
  have hnonneg : 0 ≤ ((m % 2 ^ k : Nat) : ℚ) / 2 ^ k := by positivity
  have hlt_one : ((m % 2 ^ k : Nat) : ℚ) / 2 ^ k < 1 := by
    rw [div_lt_one hpow]
    exact_mod_cast Nat.mod_lt m (Nat.two_pow_pos k)
  have hdouble : 2 * (((m % 2 ^ k : Nat) : ℚ) / 2 ^ k) = (2 * (m % 2 ^ k) : Nat) / 2 ^ k := by
    push_cast; ring
  refine ⟨m / 2 ^ k, by linarith, by push_cast; linarith, ?_⟩
  simp only [roundShift]
  split_ifs with hbelow hhalf
  · have hlt : ((2 * (m % 2 ^ k) : Nat) : ℚ) / 2 ^ k < 1 := by
      rw [div_lt_one hpow]; exact_mod_cast hbelow
    exact .inl ⟨rfl, .inl (by push_cast; linarith)⟩
  · have heq : ((2 * (m % 2 ^ k) : Nat) : ℚ) / 2 ^ k = 1 := by
      rw [hhalf, div_eq_one_iff_eq hpow.ne']; push_cast; rfl
    have hmid : 2 * ((m : ℚ) / 2 ^ k) = (m / 2 ^ k : Nat) + (m / 2 ^ k + 1 : Nat) := by push_cast; linarith
    rcases Nat.mod_two_eq_zero_or_one (m / 2 ^ k) with hq | hq
    · exact .inl ⟨by omega, .inr ⟨hmid, by omega⟩⟩
    · exact .inr ⟨by omega, .inr ⟨hmid, by omega⟩⟩
  · have hgt : 1 < ((2 * (m % 2 ^ k) : Nat) : ℚ) / 2 ^ k := by
      rw [one_lt_div hpow]; exact_mod_cast (by omega : 2 ^ k < 2 * (m % 2 ^ k))
    exact .inr ⟨rfl, .inl (by push_cast; linarith)⟩

/-! ## The last place of the rounded significand -/

/-- The exponent of the last place to which `roundNearest` rounds `m * 2 ^ e`. -/
def lastPlace (f : FloatFormat) (m : Nat) (e : Int) : Int :=
  max (e + (Nat.log2 m + 1 : Nat) - f.prec) (minExp f)

/-- The significand to which `roundNearest` rounds `m * 2 ^ e`, in units of the last place. -/
def roundedSignificand (f : FloatFormat) (m : Nat) (e : Int) : Nat :=
  if lastPlace f m e ≤ e then m * 2 ^ (e - lastPlace f m e).toNat
  else roundShift m (lastPlace f m e - e).toNat

theorem roundNearest_eq {m : Nat} (hm : m ≠ 0) (e : Int) :
    roundNearest f m e = min ((lastPlace f m e - minExp f).toNat * 2 ^ (f.prec - 1) + roundedSignificand f m e)
      (infEncoding f) := by
  rw [roundNearest, if_neg hm]; rfl

/-- The significand rounds the value measured in units of its last place. -/
theorem roundsTo_roundedSignificand (f : FloatFormat) (m : Nat) (e : Int) :
    RoundsTo Nat.cast ((m : ℚ) * 2 ^ (e - lastPlace f m e)) (roundedSignificand f m e) := by
  unfold roundedSignificand
  split_ifs with hle
  · obtain ⟨d, hd⟩ := Int.le.dest hle
    have hd' : e - lastPlace f m e = d := by omega
    rw [hd', zpow_natCast, Int.toNat_natCast]
    exact_mod_cast roundsTo_self (v := Nat.cast) Nat.strictMono_cast (m * 2 ^ d)
  · obtain ⟨d, hd⟩ := Int.le.dest (not_le.mp hle).le
    have hd' : e - lastPlace f m e = -d := by omega
    have hd'' : lastPlace f m e - e = d := by omega
    rw [hd', hd'', zpow_neg, zpow_natCast, Int.toNat_natCast, ← div_eq_mul_inv]
    exact roundsTo_roundShift m d

/-- The last place is coarse enough: the significand before rounding is below `2 ^ prec`. -/
theorem mul_zpow_lastPlace_lt (hp : 1 ≤ f.prec) (m : Nat) (e : Int) :
    (m : ℚ) * 2 ^ (e - lastPlace f m e) < (2 * 2 ^ (f.prec - 1) : Nat) := by
  have hm : (m : ℚ) < 2 ^ ((Nat.log2 m + 1 : Nat) : ℤ) := by
    rw [zpow_natCast]; exact_mod_cast Nat.lt_log2_self
  have hplace : (Nat.log2 m + 1 : Nat) + (e - lastPlace f m e) ≤ (f.prec : ℤ) := by
    have := le_max_left (e + (Nat.log2 m + 1 : Nat) - f.prec) (minExp f)
    unfold lastPlace; omega
  calc (m : ℚ) * 2 ^ (e - lastPlace f m e)
      < 2 ^ ((Nat.log2 m + 1 : Nat) : ℤ) * 2 ^ (e - lastPlace f m e) := by gcongr
    _ = 2 ^ ((Nat.log2 m + 1 : Nat) + (e - lastPlace f m e)) := (zpow_add₀ two_ne_zero _ _).symm
    _ ≤ 2 ^ (f.prec : ℤ) := zpow_le_zpow_right₀ one_le_two hplace
    _ = (2 * 2 ^ (f.prec - 1) : Nat) := by rw [← pow_succ', Nat.sub_add_cancel hp]; push_cast; rfl

/-- The last place is fine enough: the number is subnormal or its significand has `prec` bits. -/
theorem lastPlace_eq_minExp_or_le (hp : 1 ≤ f.prec) {m : Nat} (hm : m ≠ 0) (e : Int) :
    lastPlace f m e = minExp f ∨ ((2 ^ (f.prec - 1) : Nat) : ℚ) ≤ (m : ℚ) * 2 ^ (e - lastPlace f m e) := by
  rcases max_choice (e + (Nat.log2 m + 1 : Nat) - f.prec) (minExp f) with hmax | hmax
  · refine .inr ?_
    have hplace : ((f.prec - 1 : Nat) : ℤ) = Nat.log2 m + (e - lastPlace f m e) := by
      unfold lastPlace; omega
    have hle : (2 : ℚ) ^ (Nat.log2 m : ℤ) ≤ m := by
      rw [zpow_natCast]; exact_mod_cast Nat.log2_self_le hm
    calc ((2 ^ (f.prec - 1) : Nat) : ℚ)
        = 2 ^ (Nat.log2 m : ℤ) * 2 ^ (e - lastPlace f m e) := by
          rw [← zpow_add₀ two_ne_zero, ← hplace]; push_cast; rfl
      _ ≤ m * 2 ^ (e - lastPlace f m e) := by gcongr
  · exact .inl hmax

/-! ## `roundNearest` is round to nearest, ties to even -/

/-- The encoding that `roundNearest` assembles rounds `m * 2 ^ e` in the sequence of all encodings' values: where the
significand lies between `q` and `q + 1`, the value lies between two successive encodings. -/
theorem roundsTo_significand (hp : 2 ≤ f.prec) {m : Nat} (hm : m ≠ 0) (e : Int) :
    RoundsTo (floatValue f.prec f.expBits) ((m : ℚ) * 2 ^ e)
      ((lastPlace f m e - minExp f).toNat * 2 ^ (f.prec - 1) + roundedSignificand f m e) := by
  have hp1 : 1 ≤ f.prec := by omega
  have heven : (lastPlace f m e - minExp f).toNat * 2 ^ (f.prec - 1) % 2 = 0 := by
    rw [Nat.mul_mod, show f.prec - 1 = f.prec - 2 + 1 by omega, pow_succ, Nat.mul_mod_left, Nat.mul_zero, Nat.zero_mod]
  have hexp : minExp f + (lastPlace f m e - minExp f).toNat = lastPlace f m e := by
    have : minExp f ≤ lastPlace f m e := le_max_right ..
    omega
  have hr : (m : ℚ) * 2 ^ e = m * 2 ^ (e - lastPlace f m e) * 2 ^ lastPlace f m e := by
    rw [mul_assoc, ← zpow_add₀ two_ne_zero, sub_add_cancel]
  rw [hr]
  refine (roundsTo_roundedSignificand f m e).scale (by positivity) heven fun q hlo hhi => ?_
  have hq : q < 2 * 2 ^ (f.prec - 1) := by exact_mod_cast hlo.trans_lt (mul_zpow_lastPlace_lt hp1 m e)
  have hk : (lastPlace f m e - minExp f).toNat = 0 ∨ 2 ^ (f.prec - 1) ≤ q := by
    refine (lastPlace_eq_minExp_or_le hp1 hm e).imp (by omega) fun hge => Nat.le_of_lt_succ ?_
    exact_mod_cast hge.trans_lt hhi
  rw [floatValue_significand hp1 hk hq.le, floatValue_significand hp1 (hk.imp_right Nat.le_succ_of_le) hq, hexp]
  exact ⟨rfl, rfl⟩

theorem nearestEven_of_roundsTo (hp : 1 ≤ f.prec) {r : ℚ} {enc : Nat}
    (h : RoundsTo (floatValue f.prec f.expBits) r enc) (hfin : enc < infEncoding f) :
    NearestEven f.prec f.expBits r enc :=
  ⟨hfin, fun _ _ hne => h.nearest (floatValue_strictMono hp) hne⟩

theorem roundsTo_zero (hp : 1 ≤ f.prec) : RoundsTo (floatValue f.prec f.expBits) 0 0 := by
  simpa [floatValue] using roundsTo_self (floatValue_strictMono hp) 0

/-- 00_scope.md R18 for every format with a significand of at least two bits and a finite encoding: `min` with infinity
is idle up to the largest finite number. -/
theorem nearestEven_roundNearest (hp : 2 ≤ f.prec) (hinf : 0 < infEncoding f) (m : Nat) (e : Int)
    (hmax : (m : ℚ) * 2 ^ e ≤ floatValue f.prec f.expBits (infEncoding f - 1)) :
    NearestEven f.prec f.expBits ((m : ℚ) * 2 ^ e) (roundNearest f m e) := by
  have hp1 : 1 ≤ f.prec := by omega
  rcases eq_or_ne m 0 with rfl | hm
  · simpa [roundNearest] using nearestEven_of_roundsTo hp1 (roundsTo_zero hp1) hinf
  · have h := roundsTo_significand hp hm e
    have hle := h.le_of_le (floatValue_strictMono hp1) hmax
    rw [roundNearest_eq hm, min_eq_left (by omega)]
    exact nearestEven_of_roundsTo hp1 h (by omega)

/-- Settles O33: both formats have a last significand bit and finite encodings, which is all the rounding needs. -/
theorem roundingIsNearestTiesToEven : Obligations.RoundingIsNearestTiesToEven := by
  unfold Obligations.RoundingIsNearestTiesToEven
  rintro f (rfl | rfl) m e hmax
  · exact nearestEven_roundNearest (by decide) (by decide) m e hmax
  · exact nearestEven_roundNearest (by decide) (by decide) m e hmax

end Sys2Proof.Rounding

/-! The register window (10_state.md R22 to R40). The idea: an access is a slot (`regAt`) and a part of it (`laneOf`);
each is compared once with the statements' own formulas over natural numbers, and every access is one of those. -/

namespace Sys2Proof.Window

open Sys2Proof Sys2Proof.Machine Sys2Proof.Reference

/-! ## An access is the next step -/

section Step

variable {s : State} {w : Width} {off : BitVec 8} {rest : List Event}

theorem step_read (hwf : s.cfg.wf = true) (hsup : mmioSupported w off = true) (he : s.events = .read w off :: rest) :
    step s = .next { popped s rest with replies := .reg w off (readWindow s w off) :: s.replies } := by
  rw [step_event hwf he, handleEvent, hostRead, if_pos hsup]
  rfl

theorem step_write {v : Word} (hwf : s.cfg.wf = true) (hsup : mmioSupported w off = true)
    (he : s.events = .write w off v :: rest) : step s = .next (writeWindow (popped s rest) w off v) := by
  rw [step_event hwf he, handleEvent, hostWrite, if_pos hsup]
  rfl

end Step

/-! ## Slots -/

/-- The slot of a register: the number of its 8-byte row (10_state.md R22). -/
def slotOf (r : Reg) : Nat := (regOffset r).toNat / 8

theorem regAt_eq_some_iff (off : BitVec 8) (r : Reg) : regAt off = some r ↔ off.toNat / 8 = slotOf r := by
  unfold regAt
  generalize off.toNat / 8 = slot
  constructor
  · intro h
    split at h <;> cases h <;> rfl
  · rintro rfl
    cases r <;> rfl

theorem regAt_eq_none_iff (off : BitVec 8) : regAt off = none ↔ 12 ≤ off.toNat / 8 := by
  unfold regAt
  generalize off.toNat / 8 = slot
  constructor
  · intro h
    by_contra hlt
    interval_cases slot <;> cases h
  · intro h
    obtain ⟨n, rfl⟩ := Nat.exists_eq_add_of_le' h
    rfl

theorem window_reserved (s : State) {slot : Nat} (h : 12 ≤ slot) : window s slot = 0 := by
  obtain ⟨n, rfl⟩ := Nat.exists_eq_add_of_le' h
  rfl

/-! ## What the registers read as -/

theorem fieldAt_of_lt {width v : Nat} (lo : Nat) (h : v < 2 ^ width) : fieldAt width lo v = v * 2 ^ lo := by
  rw [fieldAt, Nat.mod_eq_of_lt h]

theorem fieldAt_bit (lo : Nat) (b : Bool) : fieldAt 1 lo b.toNat = if b then 2 ^ lo else 0 := by
  cases b <;> simp [fieldAt]

theorem busy_eq (s : State) : s.busy = !decide (s.inflight = none) := by
  cases h : s.inflight <;> simp [State.busy, h]

/-- The statements' STATUS in terms of the 4-bit code of LASTERR (60_exceptions.md R131). -/
theorem status_eq (s : State) : Reference.status s =
    (if s.inflight = none then 0 else 1) + (if s.errs then 2 else 0) + (if s.drop then 4 else 0) +
      16 * s.lastErr.code.toNat := by
  unfold Reference.status
  cases s.lastErr <;> rfl

theorem toNat_statusWord (s : State) : s.statusWord.toNat = Reference.status s := by
  have hcode := s.lastErr.code.isLt
  rw [State.statusWord, BitVec.toNat_ofNat, fieldAt_bit, fieldAt_bit, fieldAt_bit, fieldAt_of_lt 4 hcode, busy_eq,
    Nat.mod_eq_of_lt]
  · rw [status_eq, Nat.mul_comm 16]
    simp
  · split_ifs <;> omega

/-- The statements' CFG in terms of the model's field codes (00_scope.md R5, R10). -/
theorem cfg_eq (c : Config) : Reference.cfg c =
    c.engUnroll + 2 ^ 8 * strategyCode c.engStrat + 2 ^ 10 * c.vecEn.toNat +
      2 ^ 11 * scaleModeBit c.scaleMode + 2 ^ 16 * c.fillUnroll + 2 ^ 24 * c.vecLanes64 + 2 ^ 32 * c.addrW +
      2 ^ 40 * 1 := by
  unfold Reference.cfg
  cases c.engStrat <;> cases c.vecEn <;> cases c.scaleMode <;> rfl

theorem toNat_cfgWord {c : Config} (hc : c.wf = true) : (cfgWord c).toNat = Reference.cfg c := by
  simp only [Config.wf, Config.engUnrollOk, Config.fillUnrollOk, Config.vecOk, Config.addrWOk, Bool.and_eq_true,
    decide_eq_true_eq] at hc
  obtain ⟨⟨⟨⟨⟨hunroll, -, hfill⟩, hvec⟩, -⟩, -, haddr⟩, -⟩ := hc
  have hlanes : c.vecLanes64 ≤ 16 := by
    split at hvec <;> simp only [decide_eq_true_eq] at hvec <;> omega
  have hstrat : strategyCode c.engStrat < 2 ^ 2 := by cases c.engStrat <;> decide
  have hbit : c.vecEn.toNat < 2 ^ 1 := c.vecEn.toNat_lt
  have hrev : fieldAt 8 40 revision = 1 * 2 ^ 40 := rfl
  have hscale : scaleModeBit c.scaleMode < 2 ^ 1 := by cases c.scaleMode <;> decide
  rw [cfgWord, BitVec.toNat_ofNat, fieldAt_of_lt 0 (by omega), fieldAt_of_lt 8 hstrat,
    fieldAt_of_lt 10 hbit, fieldAt_of_lt 11 hscale, fieldAt_of_lt 16 (by omega), fieldAt_of_lt 24 (by omega),
    fieldAt_of_lt 32 (by omega), hrev, Nat.mod_eq_of_lt]
  · rw [cfg_eq]
    omega
  · omega

theorem toNat_cursorWord (s : State) :
    s.cursorWord.toNat = if s.cfg.engUnroll ≤ 1 then 0 else s.cursor.toNat := by
  unfold State.cursorWord
  have hlt := s.cursor.isLt
  by_cases h : s.cfg.engUnroll ≤ 1
  · rw [if_neg (by omega), if_pos h]
    rfl
  · rw [if_pos (by omega), if_neg h, BitVec.toNat_setWidth, Nat.mod_eq_of_lt (by omega)]

/-- Each register reads as the statements' formula for its slot. -/
theorem toNat_readReg {s : State} (hwf : s.cfg.wf = true) (r : Reg) : (readReg s r).toNat = window s (slotOf r) := by
  cases r with
  | cfg => exact toNat_cfgWord hwf
  | status => exact toNat_statusWord s
  | cursor => exact toNat_cursorWord s
  | cmd | arg0 | outLo | outHi | state | fdst | fcount | fseed | dseed => rfl

/-! ## The parts of a register -/

theorem lowMask_eq : 0x00000000FFFFFFFF#64 = (BitVec.allOnes 32).setWidth 64 := rfl
theorem highMask_eq : 0xFFFFFFFF00000000#64 = ~~~(BitVec.allOnes 32).setWidth 64 := rfl

theorem mergeLane_low (old new : Word) : mergeLane old new .low = hi32 old ++ lo32 new := by
  apply BitVec.eq_of_getLsbD_eq
  intro i hi
  simp only [mergeLane, lowMask_eq, highMask_eq, hi32, lo32, BitVec.getLsbD_append, BitVec.getLsbD_or,
    BitVec.getLsbD_and, BitVec.getLsbD_not, BitVec.getLsbD_setWidth, BitVec.getLsbD_allOnes,
    BitVec.getLsbD_extractLsb']
  by_cases hlow : i < 32
  · simp [hlow, hi]
  · have hback : 32 + (i - 32) = i := by omega
    have hhalf : i - 32 < 32 := by omega
    simp [hlow, hi, hback, hhalf]

theorem mergeLane_high (old new : Word) : mergeLane old new .high = lo32 new ++ lo32 old := by
  apply BitVec.eq_of_getLsbD_eq
  intro i hi
  simp only [mergeLane, lowMask_eq, lo32, BitVec.getLsbD_append, BitVec.getLsbD_or, BitVec.getLsbD_and,
    BitVec.getLsbD_shiftLeft, BitVec.getLsbD_setWidth, BitVec.getLsbD_allOnes, BitVec.getLsbD_extractLsb']
  by_cases hlow : i < 32
  · simp [hlow, hi]
  · have hhalf : i - 32 < 32 := by omega
    simp [hlow, hi, hhalf]

theorem toNat_append_halves (high low : Half) : (high ++ low).toNat = high.toNat * 2 ^ 32 + low.toNat := by
  rw [BitVec.toNat_append, ← Nat.shiftLeft_add_eq_or_of_lt low.isLt, Nat.shiftLeft_eq]

theorem toNat_readLane_low (v : Word) : (readLane v .low).toNat = v.toNat % 2 ^ 32 :=
  Nat.and_two_pow_sub_one_eq_mod v.toNat 32

theorem toNat_readLane_high (v : Word) : (readLane v .high).toNat = v.toNat / 2 ^ 32 := by
  rw [readLane, BitVec.toNat_ushiftRight, Nat.shiftRight_eq_div_pow]

section Lane

variable {w : Width} {off : BitVec 8}

/-- The part that a supported read answers (20_memory.md R49). -/
theorem toNat_readLane (hsup : mmioSupported w off = true) (v : Word) :
    (readLane v (laneOf w off)).toNat = part v.toNat w off.toNat := by
  cases w with
  | w8 => cases hsup
  | w16 => cases hsup
  | w64 => rfl
  | w32 =>
    by_cases h : off.toNat % 8 = 4
    · simp only [laneOf, part, if_pos h, toNat_readLane_high]
    · simp only [laneOf, part, if_neg h, toNat_readLane_low]

/-- The register after a supported write of a part of it (20_memory.md R50). -/
theorem toNat_mergeLane (hsup : mmioSupported w off = true) (old new : Word) :
    (mergeLane old new (laneOf w off)).toNat = merged old.toNat new.toNat w off.toNat := by
  cases w with
  | w8 => cases hsup
  | w16 => cases hsup
  | w64 => rfl
  | w32 =>
    by_cases h : off.toNat % 8 = 4
    · simp only [laneOf, merged, if_pos h, mergeLane_high]
      rw [toNat_append_halves, toNat_lo32, toNat_lo32]
    · simp only [laneOf, merged, if_neg h, mergeLane_low]
      rw [toNat_append_halves, toNat_hi32, toNat_lo32]

end Lane

/-! ## Accesses by slot -/

section Slot

variable {off : BitVec 8}

theorem readWindow_of_reserved (s : State) (w : Width) (h : 12 ≤ off.toNat / 8) : readWindow s w off = 0#64 := by
  simp [readWindow, (regAt_eq_none_iff off).mpr h]

theorem readWindow_of_slot (s : State) (w : Width) {r : Reg} (h : off.toNat / 8 = slotOf r) :
    readWindow s w off = readLane (readReg s r) (laneOf w off) := by
  simp [readWindow, (regAt_eq_some_iff off r).mpr h]

theorem writeWindow_of_reserved (s : State) (w : Width) (v : Word) (h : 12 ≤ off.toNat / 8) :
    writeWindow s w off v = s := by
  simp [writeWindow, (regAt_eq_none_iff off).mpr h]

theorem writeWindow_of_slot (s : State) (w : Width) (v : Word) {r : Reg} (h : off.toNat / 8 = slotOf r) :
    writeWindow s w off v = writeReg s r (laneOf w off) v := by
  simp [writeWindow, (regAt_eq_some_iff off r).mpr h]

/-- An offset is reserved, or in the row of some register. -/
theorem reserved_or_slot (off : BitVec 8) : 12 ≤ off.toNat / 8 ∨ ∃ r, off.toNat / 8 = slotOf r := by
  cases h : regAt off with
  | none => exact .inl ((regAt_eq_none_iff off).mp h)
  | some r => exact .inr ⟨r, (regAt_eq_some_iff off r).mp h⟩

theorem toNat_readWindow {s : State} {w : Width} (hwf : s.cfg.wf = true) (hsup : mmioSupported w off = true) :
    (readWindow s w off).toNat = part (window s (off.toNat / 8)) w off.toNat := by
  rcases reserved_or_slot off with h | ⟨r, h⟩
  · rw [readWindow_of_reserved s w h, window_reserved s h]
    unfold part
    split <;> simp
  · rw [readWindow_of_slot s w h, toNat_readLane hsup, toNat_readReg hwf, h]

end Slot

/-! ## What a write does -/

theorem busy_of_inflight {s : State} (h : s.inflight ≠ none) : s.busy = true := by
  simpa [State.busy, Option.isSome_iff_ne_none] using h

theorem writeOperand_busy {s : State} (h : s.inflight ≠ none) (t : State) : writeOperand s t = s.dropWrite := by
  rw [writeOperand, if_pos (busy_of_inflight h)]

theorem writeOperand_idle {s : State} (h : s.inflight = none) (t : State) : writeOperand s t = t := by
  simp [writeOperand, State.busy, h]

/-- CMD's low half while BUSY = 1 (10_state.md R35). -/
theorem writeReg_cmd_busy {s : State} (h : s.inflight ≠ none) {l : Lane} (hl : l ≠ .high) (v : Word) :
    writeReg s .cmd l v = s.dropWrite := by
  cases l with
  | whole | low => simp [writeReg, busy_of_inflight h]
  | high => exact absurd rfl hl

/-- The low half of STATUS (10_state.md R37). -/
theorem writeReg_status (s : State) {l : Lane} (hl : l ≠ .high) (v : Word) :
    writeReg s .status l v = s.clearSticky v := by
  cases l with
  | whole | low => rfl
  | high => exact absurd rfl hl

theorem laneOf_ne_high (w : Width) {off : BitVec 8} (h : off.toNat % 8 = 0) : laneOf w off ≠ .high := by
  cases w <;> simp [laneOf, h]

/-- Clearing the sticky flags, by the bits of the written value as a number (10_state.md R37). -/
theorem clearSticky_eq (s : State) (v : Word) :
    s.clearSticky v = { s with
      errs := if v.toNat / 2 % 2 = 1 then false else s.errs
      drop := if v.toNat / 4 % 2 = 1 then false else s.drop } := by
  have hbit (n : Nat) : v.getLsbD n = decide (v.toNat / 2 ^ n % 2 = 1) := Nat.testBit_eq_decide_div_mod_eq
  have hclear (b : Bool) (p : Prop) [Decidable p] : (b && !decide p) = if p then false else b := by
    by_cases hp : p <;> simp [hp]
  rw [State.clearSticky, hbit 1, hbit 2, hclear, hclear]
  rfl

/-! ## The obligations -/

/-- Settles O18: the value by slot and part; the rest is the read's step. -/
theorem readsAnswerAndChangeNothing : Obligations.ReadsAnswerAndChangeNothing := by
  unfold Obligations.ReadsAnswerAndChangeNothing
  intro s w off rest hwf hsup he
  exact ⟨readWindow s w off, toNat_readWindow hwf hsup, step_read hwf hsup he⟩

/-- Settles O19: each of the five registers takes its write only on an idle block. -/
theorem writesWhileBusyAreDropped : Obligations.WritesWhileBusyAreDropped := by
  unfold Obligations.WritesWhileBusyAreDropped
  intro s w off v rest hwf hbusy hsup he hoff
  have hbusy' : (popped s rest).inflight ≠ none := hbusy
  have hdrop : writeWindow (popped s rest) w off v = (popped s rest).dropWrite := by
    rcases hoff with rfl | h | h | h | h
    · rw [writeWindow_of_slot (off := 0x10#8) _ w v (r := .cmd) rfl, writeReg_cmd_busy hbusy' (laneOf_ne_high w rfl)]
    · rw [writeWindow_of_slot _ w v (r := .arg0) h, writeReg, writeOperand_busy hbusy']
    · rw [writeWindow_of_slot _ w v (r := .fdst) h, writeReg, writeOperand_busy hbusy']
    · rw [writeWindow_of_slot _ w v (r := .fcount) h, writeReg, writeOperand_busy hbusy']
    · rw [writeWindow_of_slot _ w v (r := .fseed) h, writeReg, writeOperand_busy hbusy']
  rw [step_write hwf hsup he, hdrop]
  rfl

/-- Settles O20: the register's new value is `mergeLane` of the old one. -/
theorem operandWritesChangeOnlyTheirPart : Obligations.OperandWritesChangeOnlyTheirPart := by
  unfold Obligations.OperandWritesChangeOnlyTheirPart
  intro s w off v rest hwf hidle hsup he
  have hidle' : (popped s rest).inflight = none := hidle
  rw [step_write hwf hsup he]
  refine ⟨fun h => ⟨_, toNat_mergeLane hsup s.arg0 v, ?_⟩, fun h => ⟨_, toNat_mergeLane hsup s.fdst v, ?_⟩,
    fun h => ⟨_, toNat_mergeLane hsup s.fcount v, ?_⟩, fun h => ⟨_, toNat_mergeLane hsup s.fseed v, ?_⟩⟩
  · rw [writeWindow_of_slot _ w v (r := .arg0) h, writeReg, writeOperand_idle hidle']
    rfl
  · rw [writeWindow_of_slot _ w v (r := .fdst) h, writeReg, writeOperand_idle hidle']
    rfl
  · rw [writeWindow_of_slot _ w v (r := .fcount) h, writeReg, writeOperand_idle hidle']
    rfl
  · rw [writeWindow_of_slot _ w v (r := .fseed) h, writeReg, writeOperand_idle hidle']
    rfl

/-- Settles O21: neither width reaches only the upper half at 0x08. -/
theorem statusWriteClearsNamedFlags : Obligations.StatusWriteClearsNamedFlags := by
  unfold Obligations.StatusWriteClearsNamedFlags
  intro s w v rest hwf hw he
  have hsup : mmioSupported w 0x08#8 = true := by rcases hw with rfl | rfl <;> rfl
  rw [step_write hwf hsup he, writeWindow_of_slot (off := 0x08#8) _ w v (r := .status) rfl,
    writeReg_status _ (laneOf_ne_high w rfl), clearSticky_eq]
  rfl

/-- A write that reaches no writable register (10_state.md R40). -/
theorem writeWindow_readOnly (s : State) (w : Width) {off : BitVec 8} (v : Word)
    (h : off.toNat / 8 = 0 ∨ (4 ≤ off.toNat / 8 ∧ off.toNat / 8 ≤ 7) ∨ 11 ≤ off.toNat / 8) :
    writeWindow s w off v = s := by
  rcases reserved_or_slot off with hres | ⟨r, hslot⟩
  · exact writeWindow_of_reserved s w v hres
  · rw [writeWindow_of_slot s w v hslot]
    rw [hslot] at h
    cases r with
    | cfg | outLo | outHi | state | cursor | dseed => rfl
    | status | cmd | arg0 | fdst | fcount | fseed => exact absurd h (by decide)

/-- Settles O22: such a write finds no writable register, such a read no register at all. -/
theorem readOnlyWritesAreIgnored : Obligations.ReadOnlyWritesAreIgnored := by
  unfold Obligations.ReadOnlyWritesAreIgnored
  intro s w off v rest hwf hsup
  refine ⟨fun h he => ?_, fun h he => ?_⟩
  · rw [step_write hwf hsup he, writeWindow_readOnly _ w v h]
  · rw [step_read hwf hsup he, readWindow_of_reserved s w h]

/-- Settles O55: at both offsets the 32 bits are the upper half, which takes no write. -/
theorem upperHalfWritesOfCmdAndStatusAreIgnored : Obligations.UpperHalfWritesOfCmdAndStatusAreIgnored := by
  unfold Obligations.UpperHalfWritesOfCmdAndStatusAreIgnored
  rintro s off v rest hwf (rfl | rfl) he
  · rw [step_write hwf rfl he, writeWindow_of_slot (off := 0x14#8) _ _ v (r := .cmd) rfl]
    rfl
  · rw [step_write hwf rfl he, writeWindow_of_slot (off := 0x0C#8) _ _ v (r := .status) rfl]
    rfl

end Sys2Proof.Window

/-! The invariant of every step (10_state.md R45). The idea: `Move` lists once what a step can do to the block, and each
fact about every step (the invariant, the parameters, what a command in flight hides) is a case analysis of it. -/

namespace Sys2Proof.Invariant

open Sys2Proof Sys2Proof.Machine Sys2Proof.Reference

/-! ## Equations of the shared operations -/

/-- Acceptance as one record update (60_exceptions.md R129). -/
theorem accept_eq (word : Half) (i : Instr) (s : State) :
    accept word i s = { s with
      inflight := some ⟨word, s.liveOperands, [], 0⟩
      fstate := if fillForm i = none then s.fstate else substSeed s.cfg s.fseed } := by
  unfold accept
  cases fillForm i <;> simp

/-- The element of a FILL that the fill writer performs, as one record update (43_fill.md R112). -/
theorem markWritten_mixTo {s : State} {r : InFlight} (hr : s.inflight = some r) (j : FillJob) (n e : Nat)
    (m : Memory) :
    markWritten (mixTo j n { s with mem := m }) e = { s with
      mem := m
      fstate := streamState j.strat s.fstate (n - r.mixed)
      inflight := some { r with written := e :: r.written, mixed := max r.mixed n } } := by
  simp [mixTo, markWritten, hr]

theorem mixTurn_of_inflightFill {s : State} {j : FillJob} (hj : inflightFill s = some j) :
    mixTurn s = .next (mixTo j (s.mixed + 1) s) := by
  simp [mixTurn, hj]

theorem busy_eq_false_iff (s : State) : s.busy = false ↔ s.inflight = none := by
  simp [State.busy]

theorem pending_eq_true_iff {s : State} {r : InFlight} (hr : s.inflight = some r) (e : Nat) :
    pending s e = true ↔ e ∉ r.written := by
  simp [pending, State.written, hr]

/-- The five forms of a command: whatever holds of `mixpCommand`, `execSeed`, `drawCommand`, `cvtCommand` and
`fillCommand` holds of every command. -/
theorem exec_forms (i : Instr) (s : State) :
    (∃ f, exec i s = mixpCommand f s) ∨ exec i s = execSeed s ∨
    (∃ b, b ≤ 16 ∧ exec i s = drawCommand b s) ∨ (∃ f, exec i s = cvtCommand f s) ∨
    ∃ b k, fillForm i = some (b, k) ∧ exec i s = fillCommand b k s := by
  cases hf : fillForm i with
  | some p => exact .inr (.inr (.inr (.inr ⟨p.1, p.2, rfl, exec_fill hf s⟩)))
  | none =>
    cases i with
    | mixpA2 => exact .inl ⟨mixA2, rfl⟩
    | mixpA1 => exact .inl ⟨mixA1, rfl⟩
    | mixpB => exact .inl ⟨Machine.mixB, rfl⟩
    | seed => exact .inr (.inl rfl)
    | drawB => exact .inr (.inr (.inl ⟨1, by omega, rfl⟩))
    | drawH => exact .inr (.inr (.inl ⟨2, by omega, rfl⟩))
    | drawW => exact .inr (.inr (.inl ⟨4, by omega, rfl⟩))
    | drawD => exact .inr (.inr (.inl ⟨8, by omega, rfl⟩))
    | drawQ => exact .inr (.inr (.inl ⟨16, by omega, rfl⟩))
    | cvtD => exact .inr (.inr (.inr (.inl ⟨_, by rw [exec_cvtD, execCvtD]⟩)))
    | cvtS => exact .inr (.inr (.inr (.inl ⟨_, by rw [exec_cvtS, execCvtS]⟩)))
    | cvtS2 => exact .inr (.inr (.inr (.inl ⟨_, by rw [exec_cvtS2, execCvtS2]⟩)))
    | cvtSfix => exact .inr (.inr (.inr (.inl ⟨_, by rw [exec_cvtSfix, execCvtSfix]⟩)))
    | fillDA2 | fillDA1 | fillDB | fillSA2 | fillSA1 | fillSB => cases hf

/-! ## What one step can do -/

/-- What a step can do to a state `s` whose script has been advanced. -/
inductive Move (s : State) : State → Prop where
  /-- Reads, STATUS writes, dropped and ignored writes, changes of the platform's map, turns with nothing to do. -/
  | observe (errs drop : Bool) (rs : List Region) (rp : List Reply) :
      Move s { s with errs := errs, drop := drop, regions := rs, replies := rp }
  /-- A write of an operand register while BUSY = 0. -/
  | setOperands (hidle : s.inflight = none) (o : Operands) :
      Move s { s with arg0 := o.arg0, fdst := o.fdst, fcount := o.fcount, fseed := o.fseed }
  /-- A rejection. -/
  | reject (e : ErrCode) : Move s (s.raiseError e)
  /-- An acceptance. -/
  | accept {word : Half} {i : Instr} (hidle : s.inflight = none) (hd : decode word = .ok i)
      (hv : rejection s.cfg i s.liveOperands = none) : Move s (Machine.accept word i s)
  /-- The command unit completes the command in flight. -/
  | complete {i : Instr} {t : State} (he : exec i s = .next t) : Move s t
  /-- The platform refuses an element of the FILL in flight. -/
  | bus {j : FillJob} (hj : inflightFill s = some j) : Move s (endWithBus j s)
  /-- The fill writer performs an element. -/
  | element {j : FillJob} {e : Nat} (hj : inflightFill s = some j) (hlt : e < j.count) (hp : pending s e = true) :
      Move s (markWritten (mixTo j (wordIndex j e + 1) { s with mem := writeElem j s.mem e }) e)
  /-- The fill datapath mixes. -/
  | mix {j : FillJob} (n : Nat) (hj : inflightFill s = some j) : Move s (mixTo j n s)
  /-- Reset with no FILL that writes in flight. -/
  | reset : Move s (resetBlock s)
  /-- Reset that abandons a FILL. -/
  | abandon {j : FillJob} (p : Nat → Bool) (hj : inflightFill s = some j) :
      Move s (resetBlock { s with mem := writeElems j p j.count s.mem })
  /-- Another agent writes memory. -/
  | store {a n : Nat} (v : Word) (hend : a + n ≤ 2 ^ s.cfg.addrW) : Move s { s with mem := s.mem.writeLE a n v }

theorem Move.refl (s : State) : Move s s := .observe s.errs s.drop s.regions s.replies

theorem submit_move (word : Half) {s : State} (hidle : s.inflight = none) : Move s (submit word s) := by
  rcases submit_cases word s with ⟨-, h⟩ | ⟨i, e, -, -, h⟩ | ⟨i, hd, hv, h⟩ <;> rw [h]
  · exact .reject _
  · exact .reject e
  · exact .accept hidle hd hv

theorem writeWindow_move (s : State) (w : Width) (off : BitVec 8) (v : Word) : Move s (writeWindow s w off v) := by
  rcases writeWindow_cases s w off v with h | h | ⟨-, h⟩ | ⟨hb, h⟩ | ⟨hb, x, h⟩ | ⟨hb, x, h⟩ | ⟨hb, x, h⟩ | ⟨hb, x, h⟩ <;>
    rw [h]
  · exact .refl s
  · exact .observe _ _ s.regions s.replies
  · exact .observe s.errs true s.regions s.replies
  · exact submit_move _ ((busy_eq_false_iff s).mp hb)
  · exact .setOperands ((busy_eq_false_iff s).mp hb) ⟨x, s.fdst, s.fcount, s.fseed⟩
  · exact .setOperands ((busy_eq_false_iff s).mp hb) ⟨s.arg0, x, s.fcount, s.fseed⟩
  · exact .setOperands ((busy_eq_false_iff s).mp hb) ⟨s.arg0, s.fdst, x, s.fseed⟩
  · exact .setOperands ((busy_eq_false_iff s).mp hb) ⟨s.arg0, s.fdst, s.fcount, x⟩

theorem reply_move (s : State) (a : Reply) : Move s (s.reply a) := .observe s.errs s.drop s.regions (a :: s.replies)

section Agents

variable {s t : State}

theorem hostRead_move {w : Width} {off : BitVec 8} (h : hostRead w off s = .next t) : Move s t := by
  unfold hostRead at h
  split at h <;> cases h
  exact reply_move s _

theorem hostWrite_move {w : Width} {off : BitVec 8} {v : Word} (h : hostWrite w off v s = .next t) : Move s t := by
  unfold hostWrite at h
  split at h <;> cases h
  exact writeWindow_move s w off v

theorem unitTurn_move (h : unitTurn s = .next t) : Move s t := by
  rcases unitTurn_cases s with ⟨-, h'⟩ | ⟨r, i, -, -, h'⟩ | ⟨r, e, -, -, h'⟩ <;> rw [h'] at h
  · cases h
    exact .refl s
  · exact .complete h
  · cases h
    exact .reject _

theorem writerTurn_move {e : Nat} (h : writerTurn e s = .next t) : Move s t := by
  rcases writerTurn_cases e s with h' | ⟨j, hj, hlt, hp, ⟨-, h'⟩ | ⟨-, -, h'⟩ | ⟨-, -, h'⟩⟩ <;> rw [h'] at h <;> cases h
  · exact .refl s
  · exact .bus hj
  · exact .element hj hlt hp

theorem mixTurn_move (h : mixTurn s = .next t) : Move s t := by
  cases hj : inflightFill s with
  | none =>
    simp only [mixTurn, hj] at h
    cases h
    exact .refl s
  | some j =>
    rw [mixTurn_of_inflightFill hj] at h
    cases h
    exact .mix _ hj

theorem resetTurn_move (h : resetTurn s = .next t) : Move s t := by
  rcases resetTurn_cases s with ⟨-, h'⟩ | ⟨j, hj, ⟨-, h'⟩ | ⟨-, h'⟩⟩ <;> rw [h'] at h <;> cases h
  · exact .reset
  · exact .abandon _ hj

theorem destRead_move {w : Width} {a : Nat} (h : destRead w a s = .next t) : Move s t := by
  unfold destRead at h
  split at h
  · cases h
  · split at h <;> cases h
    exact reply_move s _

theorem destWrite_move {w : Width} {a : Nat} {v : Word} (h : destWrite w a v s = .next t) : Move s t := by
  unfold destWrite at h
  split at h
  · cases h
  · next hend =>
    split at h <;> cases h
    exact .store v (by omega)

theorem handleEvent_move {e : Event} (h : handleEvent e s = .next t) : Move s t := by
  cases e with
  | read w off => exact hostRead_move h
  | write w off v => exact hostWrite_move h
  | unitTurn => exact unitTurn_move h
  | writerTurn i => exact writerTurn_move h
  | mixTurn => exact mixTurn_move h
  | reset => exact resetTurn_move h
  | platform rs =>
    cases h
    exact .observe s.errs s.drop rs s.replies
  | destRead w a => exact destRead_move h
  | destWrite w a v => exact destWrite_move h

/-- Everything a step can do: the script advances, and one of the moves happens. -/
theorem step_move (h : step s = .next t) : ∃ rest, Move (popped s rest) t := by
  have hwf := wf_of_step_next h
  cases hev : s.events with
  | nil =>
    rw [step_empty hwf hev] at h
    have hpop : popped s [] = s := by rw [← hev]; rfl
    refine ⟨[], ?_⟩
    rw [hpop]
    exact unitTurn_move h
  | cons e rest =>
    rw [step_event hwf hev] at h
    exact ⟨rest, handleEvent_move h⟩

end Agents

/-! ## The engine's shape -/

/-- The shape of an engine (10_state.md R45); of a state's engine it is `State.engineOk`. -/
def Shaped (c : Config) (e : Engine) : Prop :=
  if c.engUnroll > 1 then e.buf.length = c.engUnroll ∧ e.cursor.toNat ≤ 8 * c.engUnroll
  else e.buf = [] ∧ e.cursor = 0#10

theorem engineOk_iff_shaped (s : State) : s.engineOk ↔ Shaped s.cfg s.engine := Iff.rfl

theorem shaped_of_buffered {c : Config} (hc : 1 < c.engUnroll) (e : Engine) :
    Shaped c e ↔ e.buf.length = c.engUnroll ∧ e.cursor.toNat ≤ 8 * c.engUnroll := by
  simp [Shaped, hc]

theorem engineOk_of_buffered {s : State} (hu : 1 < s.cfg.engUnroll) :
    s.engineOk ↔ s.buf.length = s.cfg.engUnroll ∧ s.cursor.toNat ≤ 8 * s.cfg.engUnroll :=
  (engineOk_iff_shaped s).trans (shaped_of_buffered hu s.engine)

theorem engUnroll_le_of_wf {c : Config} (hc : c.wf = true) : c.engUnroll ≤ 64 := by
  simp only [Config.wf, Config.engUnrollOk, Bool.and_eq_true, decide_eq_true_eq] at hc
  omega

/-- CURSOR's ten bits hold every offset of the buffer, its end included. -/
theorem toNat_cursor_of_le {c : Config} (hc : c.wf = true) {n : Nat} (hn : n ≤ 8 * c.engUnroll) :
    (BitVec.ofNat 10 n).toNat = n := by
  have := engUnroll_le_of_wf hc
  rw [BitVec.toNat_ofNat, Nat.mod_eq_of_lt (by omega)]

theorem mixSteps_length (k : Strategy) (n : Nat) (st : Word) : (mixSteps k n st).1.length = n := by
  induction n generalizing st with
  | zero => rfl
  | succ m ih => simp [mixSteps, ih]

section Engine

variable {c : Config} {b : Nat} {e : Engine}

theorem refill_shaped (hu : 1 < c.engUnroll) (e : Engine) : Shaped c (refill c e) :=
  (shaped_of_buffered hu _).mpr ⟨mixSteps_length .., Nat.zero_le _⟩

theorem serve_shaped (hc : c.wf = true) (hu : 1 < c.engUnroll) (he : Shaped c e)
    (hfit : e.cursor.toNat + b ≤ 8 * c.engUnroll) : Shaped c (serve b e).2 := by
  rw [shaped_of_buffered hu] at he ⊢
  refine ⟨he.1, ?_⟩
  change (BitVec.ofNat 10 (e.cursor.toNat + b)).toNat ≤ _
  rw [toNat_cursor_of_le hc hfit]
  exact hfit

/-- A draw fits after a refill: it takes at most 16 bytes, and a buffer holds at least two words. -/
theorem drawBuffered_shaped (hc : c.wf = true) (hu : 1 < c.engUnroll) (hb : b ≤ 16) (he : Shaped c e) :
    Shaped c (drawBuffered c b e).2 := by
  unfold drawBuffered
  split
  · refine serve_shaped hc hu (refill_shaped hu e) ?_
    change 0 + b ≤ _
    omega
  · exact serve_shaped hc hu he (by omega)

theorem drawUnbuffered_shaped (he : Shaped c e) : Shaped c (drawUnbuffered c b e).2 := by
  unfold drawUnbuffered
  split <;> exact he

theorem draw_shaped (hc : c.wf = true) (hb : b ≤ 16) (he : Shaped c e) : Shaped c (draw c b e).2 := by
  unfold draw
  split
  · next hu => exact drawBuffered_shaped hc (by simpa [buffered] using hu) hb he
  · exact drawUnbuffered_shaped he

end Engine

/-! ## Memory under the element writes -/

/-- The destination of a job lies inside the address space. -/
def Fits (c : Config) (j : FillJob) : Prop := j.dst + j.count * elemBytes j.size ≤ 2 ^ c.addrW

theorem fits_of_proceed {c : Config} {b : ElemSize} {o : Operands} (h : fillCheck c b o = .proceed) (k : Strategy) :
    Fits c (fillJob c b k o) :=
  ((fillCheck_proceed_iff c b o).mp h).2.2

theorem fits_of_inflightFill {s : State} {j : FillJob} (h : inflightFill s = some j) : Fits s.cfg j := by
  obtain ⟨r, i, b, k, -, -, -, hc, rfl⟩ := inflightFill_eq_some h
  exact fits_of_proceed hc k

section Memory

variable {s : State} {j : FillJob}

theorem writeElems_memoryOk (h : s.memoryOk) (hj : Fits s.cfg j) (p : Nat → Bool) :
    State.memoryOk { s with mem := writeElems j p j.count s.mem } :=
  ⟨writeElems_wf j p j.count h.1, writeElems_below j p j.count h.2 hj⟩

theorem writeLE_memoryOk (h : s.memoryOk) {a n : Nat} (hend : a + n ≤ 2 ^ s.cfg.addrW) (v : Word) :
    State.memoryOk { s with mem := s.mem.writeLE a n v } :=
  ⟨Memory.writeLE_wf a n v h.1, Memory.writeLE_below a n v h.2 hend⟩

theorem writeElem_memoryOk (h : s.memoryOk) (hj : Fits s.cfg j) {e : Nat} (he : e < j.count) :
    State.memoryOk { s with mem := writeElem j s.mem e } := by
  have hle : (e + 1) * elemBytes j.size ≤ j.count * elemBytes j.size := Nat.mul_le_mul_right _ he
  rw [Nat.succ_mul] at hle
  refine writeLE_memoryOk h ?_ _
  unfold Fits at hj
  unfold elemAddr
  omega

end Memory

/-! ## A command that completes -/

/-- A command keeps the engine's shape and memory's form. -/
theorem exec_keeps_engine_and_memory {i : Instr} {s t : State} (h : exec i s = .next t) (hwf : s.cfg.wf = true)
    (heng : s.engineOk) (hmem : s.memoryOk) : t.engineOk ∧ t.memoryOk := by
  rcases exec_forms i s with ⟨f, hi⟩ | hi | ⟨b, hb, hi⟩ | ⟨f, hi⟩ | ⟨b, k, -, hi⟩ <;> rw [hi] at h
  · rw [mixpCommand_next] at h
    cases h
    exact ⟨heng, hmem⟩
  · rw [execSeed_next] at h
    cases h
    refine ⟨?_, hmem⟩
    by_cases hu : 1 < s.cfg.engUnroll
    · rw [engineOk_of_buffered hu] at heng
      refine (engineOk_of_buffered ?_).mpr ⟨heng.1, ?_⟩
      · exact hu
      · simp [buffered, hu, toNat_cursor_of_le hwf le_rfl]
    · simpa [State.engineOk, buffered, hu] using heng
  · rw [drawCommand_next] at h
    cases h
    exact ⟨(engineOk_iff_shaped _).mpr (draw_shaped hwf hb ((engineOk_iff_shaped s).mp heng)), hmem⟩
  · rw [cvtCommand_next] at h
    cases h
    exact ⟨heng, hmem⟩
  · rcases fillCommand_cases b k s with ⟨-, h'⟩ | ⟨e, -, h'⟩ | ⟨hc, ⟨-, h'⟩ | ⟨-, -, h'⟩ | ⟨-, -, h'⟩⟩ <;>
      rw [h'] at h <;> cases h
    · exact ⟨heng, hmem⟩
    · exact ⟨heng, hmem⟩
    · exact ⟨heng, writeElems_memoryOk hmem (fits_of_proceed hc k) _⟩
    · exact ⟨heng, writeElems_memoryOk hmem (fits_of_proceed hc k) _⟩

/-! ## The record in flight -/

theorem recordOk_of_idle {s : State} (h : s.inflight = none) : s.recordOk := by
  intro r hr
  rw [h] at hr
  cases hr

/-- What the invariant says of a FILL in flight. -/
theorem recordOk_fill_iff {s : State} {r : InFlight} {i : Instr} {b : ElemSize} {k : Strategy}
    (hr : s.inflight = some r) (hd : decode r.word = .ok i) (hf : fillForm i = some (b, k)) :
    s.recordOk ↔ r.ops = s.liveOperands ∧ rejection s.cfg i r.ops = none ∧
      s.fstate = streamState k (substSeed s.cfg r.ops.fseed) r.mixed ∧
      (r.ops.fcount = 0#64 → r.mixed = 0) ∧
      (∀ e ∈ r.written, wordIndex (fillJob s.cfg b k r.ops) e < r.mixed) ∧
      r.written.Nodup ∧ ∀ e ∈ r.written, e < r.ops.fcount.toNat := by
  constructor
  · intro h
    obtain ⟨hops, i', hd', hv, -, hfill, hnodup, hlt⟩ := h r hr
    obtain rfl : i = i' := Except.ok.inj (hd.symm.trans hd')
    obtain ⟨hst, hzero, hword⟩ := hfill b k hf
    exact ⟨hops, hv, hst, hzero, hword, hnodup, hlt⟩
  · rintro ⟨hops, hv, hst, hzero, hword, hnodup, hlt⟩ r' hr'
    obtain rfl : r = r' := Option.some.inj (hr.symm.trans hr')
    refine ⟨hops, i, hd, hv, fun hn => ?_, fun b' k' hf' => ?_, hnodup, hlt⟩
    · rw [hf] at hn
      cases hn
    · rw [hf] at hf'
      cases hf'
      exact ⟨hst, hzero, hword⟩

theorem accept_recordOk {s : State} {word : Half} {i : Instr} (hd : decode word = .ok i)
    (hv : rejection s.cfg i s.liveOperands = none) : (accept word i s).recordOk := by
  rw [accept_eq]
  intro r hr
  cases hr
  refine ⟨rfl, i, hd, hv, fun _ => ⟨rfl, rfl⟩, fun b k hf => ?_, List.nodup_nil, by simp⟩
  exact ⟨by simp [hf, streamState, State.liveOperands], fun _ => rfl, by simp⟩

/-- FSTATE keeps its place in the stream: `n - m` further steps from the state after `m` steps. -/
theorem streamState_max (k : Strategy) (seed : Word) (m n : Nat) :
    streamState k (streamState k seed m) (n - m) = streamState k seed (max m n) := by
  rw [streamState_add]
  congr 1
  omega

theorem mixTo_recordOk {s : State} {j : FillJob} (n : Nat) (hj : inflightFill s = some j) (h : s.recordOk) :
    (mixTo j n s).recordOk := by
  obtain ⟨r, i, b, k, hr, hd, hf, hc, rfl⟩ := inflightFill_eq_some hj
  obtain ⟨hops, hv, hst, -, hword, hnodup, hlt⟩ := (recordOk_fill_iff hr hd hf).mp h
  have hne : r.ops.fcount ≠ 0#64 := ((fillCheck_proceed_iff _ _ _).mp hc).1
  rw [mixTo_of_inflight _ _ hr]
  refine (recordOk_fill_iff (r := { r with mixed := max r.mixed n }) rfl hd hf).mpr
    ⟨hops, hv, ?_, fun hz => absurd hz hne, fun e he => ?_, hnodup, hlt⟩
  · change streamState k s.fstate (n - r.mixed) = _
    rw [hst]
    exact streamState_max k _ r.mixed n
  · exact lt_max_of_lt_left (hword e he)

/-- Marking an element as performed keeps the record right where the element exists, is new and its word is mixed. -/
theorem markWritten_recordOk {s : State} {j : FillJob} {e : Nat} (hj : inflightFill s = some j) (h : s.recordOk)
    (hlt : e < j.count) (hp : pending s e = true) (hmixed : wordIndex j e < s.mixed) : (markWritten s e).recordOk := by
  obtain ⟨r, i, b, k, hr, hd, hf, -, rfl⟩ := inflightFill_eq_some hj
  obtain ⟨hops, hv, hst, hzero, hword, hnodup, hbound⟩ := (recordOk_fill_iff hr hd hf).mp h
  have hmixed' : wordIndex (fillJob s.cfg b k r.ops) e < r.mixed := by simpa [State.mixed, hr] using hmixed
  rw [markWritten_of_inflight _ hr]
  refine (recordOk_fill_iff (r := { r with written := e :: r.written }) rfl hd hf).mpr
    ⟨hops, hv, hst, hzero, ?_, ?_, ?_⟩
  · exact List.forall_mem_cons.mpr ⟨hmixed', hword⟩
  · exact List.nodup_cons.mpr ⟨(pending_eq_true_iff hr e).mp hp, hnodup⟩
  · exact List.forall_mem_cons.mpr ⟨hlt, hbound⟩

/-! ## The invariant -/

theorem element_recordOk {s : State} {j : FillJob} {e : Nat} (hj : inflightFill s = some j) (h : s.recordOk)
    (hlt : e < j.count) (hp : pending s e = true) (m : Memory) :
    (markWritten (mixTo j (wordIndex j e + 1) { s with mem := m }) e).recordOk := by
  obtain ⟨r, -, -, -, hr, -⟩ := inflightFill_eq_some hj
  have hmix := mixTo_of_inflight (s := { s with mem := m }) j (wordIndex j e + 1) hr
  have hrec := mixTo_recordOk (s := { s with mem := m }) (wordIndex j e + 1) hj h
  rw [hmix] at hrec ⊢
  refine markWritten_recordOk (j := j) ?_ hrec hlt ?_ ?_
  · rw [← hj]; simp [inflightFill, hr]
  · rw [← hp]; simp [pending, State.written, hr]
  · exact lt_max_of_lt_right (Nat.lt_succ_self _)

theorem resetOf_engineOk {c : Config} (hc : c.wf = true) : (State.resetOf c).engineOk := by
  by_cases hu : 1 < c.engUnroll
  · refine (engineOk_of_buffered (s := State.resetOf c) hu).mpr ?_
    simp [State.resetOf, hu, toNat_cursor_of_le hc le_rfl]
  · simp [State.engineOk, State.resetOf, hu]

theorem resetBlock_engineOk {s : State} (hwf : s.cfg.wf = true) : (resetBlock s).engineOk := resetOf_engineOk hwf

theorem Move.inv {s t : State} (m : Move s t) (h : s.Inv) : t.Inv := by
  obtain ⟨hwf, heng, hrec, hmem⟩ := h
  cases m with
  | observe => exact ⟨hwf, heng, hrec, hmem⟩
  | setOperands hidle o => exact ⟨hwf, heng, recordOk_of_idle hidle, hmem⟩
  | reject e => exact ⟨hwf, heng, recordOk_of_idle rfl, hmem⟩
  | accept _ hd hv =>
    have hrec' := accept_recordOk hd hv
    rw [accept_eq] at hrec' ⊢
    exact ⟨hwf, heng, hrec', hmem⟩
  | complete he =>
    obtain ⟨hcfg, -, -, -, -, -, -, -, -, hidle⟩ := exec_next_frame he
    obtain ⟨heng', hmem'⟩ := exec_keeps_engine_and_memory he hwf heng hmem
    exact ⟨hcfg ▸ hwf, heng', recordOk_of_idle hidle, hmem'⟩
  | bus hj => exact ⟨hwf, heng, recordOk_of_idle rfl, writeElems_memoryOk hmem (fits_of_inflightFill hj) _⟩
  | element hj hlt hp =>
    have hrec' := element_recordOk hj hrec hlt hp
    obtain ⟨r, -, -, -, hr, -⟩ := inflightFill_eq_some hj
    simp only [markWritten_mixTo hr] at hrec' ⊢
    exact ⟨hwf, heng, hrec' _, writeElem_memoryOk hmem (fits_of_inflightFill hj) hlt⟩
  | mix n hj =>
    have hrec' := mixTo_recordOk n hj hrec
    obtain ⟨r, -, -, -, hr, -⟩ := inflightFill_eq_some hj
    rw [mixTo_of_inflight _ _ hr] at hrec' ⊢
    exact ⟨hwf, heng, hrec', hmem⟩
  | reset => exact ⟨hwf, resetBlock_engineOk hwf, recordOk_of_idle rfl, hmem⟩
  | abandon p hj =>
    exact ⟨hwf, resetBlock_engineOk hwf, recordOk_of_idle rfl, writeElems_memoryOk hmem (fits_of_inflightFill hj) p⟩
  | store v hend => exact ⟨hwf, heng, hrec, writeLE_memoryOk hmem hend v⟩

/-- Settles O5: advancing the script keeps the invariant, and so does every move. -/
theorem everyStepKeepsInvariant : Obligations.EveryStepKeepsInvariant := by
  unfold Obligations.EveryStepKeepsInvariant
  intro s t hinv hstep
  obtain ⟨rest, hmove⟩ := step_move hstep
  have hpop : (popped s rest).Inv := hinv
  exact hmove.inv hpop

theorem resetOf_inv {c : Config} (hc : c.wf = true) : (State.resetOf c).Inv :=
  ⟨hc, resetOf_engineOk hc, recordOk_of_idle rfl, rfl, rfl⟩

/-- Settles O2: the default configuration is a well-formed one. -/
theorem resetStateSatisfiesInvariant : Obligations.ResetStateSatisfiesInvariant := by
  unfold Obligations.ResetStateSatisfiesInvariant
  exact ⟨fun _ hc => resetOf_inv hc, resetOf_inv (by decide)⟩

/-! ## What a command in flight hides -/

/-- A move that leaves a command in flight changes no register but the flags and FSTATE, and of the record only the
bookkeeping (10_state.md R25, R41). -/
theorem Move.inflight_frame {s t : State} (m : Move s t) {r r' : InFlight} (hr : s.inflight = some r)
    (hr' : t.inflight = some r') :
    t = { s with
      errs := t.errs, drop := t.drop, fstate := t.fstate, mem := t.mem, regions := t.regions, replies := t.replies
      inflight := some { r with written := r'.written, mixed := r'.mixed } } := by
  cases m with
  | observe =>
    obtain rfl : r = r' := Option.some.inj (hr.symm.trans hr')
    rw [← hr]
  | setOperands hidle =>
    rw [hr] at hidle
    cases hidle
  | reject => cases hr'
  | accept hidle =>
    rw [hr] at hidle
    cases hidle
  | complete he =>
    obtain ⟨-, -, -, -, -, -, -, -, -, hidle⟩ := exec_next_frame he
    rw [hidle] at hr'
    cases hr'
  | bus => cases hr'
  | element hj =>
    rw [markWritten_mixTo hr] at hr' ⊢
    cases hr'
    rfl
  | mix n hj =>
    rw [mixTo_of_inflight _ _ hr] at hr' ⊢
    cases hr'
    rfl
  | reset => cases hr'
  | abandon => cases hr'
  | store =>
    obtain rfl : r = r' := Option.some.inj (hr.symm.trans hr')
    rw [← hr]

/-- Settles O7: each named register is read off the one equation for the next state. -/
theorem inFlightCommandHidesItsEffects : Obligations.InFlightCommandHidesItsEffects := by
  unfold Obligations.InFlightCommandHidesItsEffects
  intro s t r r' hr hstep hr'
  obtain ⟨rest, hmove⟩ := step_move hstep
  have heq := hmove.inflight_frame hr hr'
  have hrec : r' = { r with written := r'.written, mixed := r'.mixed } :=
    Option.some.inj (hr'.symm.trans (congrArg State.inflight heq))
  rw [heq, hrec]
  exact ⟨rfl, rfl, rfl, rfl, rfl, rfl, rfl, rfl, rfl, rfl, rfl, rfl⟩

/-! ## The build parameters -/

theorem Move.cfg_eq {s t : State} (m : Move s t) : t.cfg = s.cfg := by
  cases m with
  | observe | setOperands | reject | bus | reset | abandon | store => rfl
  | accept => rw [accept_eq]
  | complete he => exact (exec_next_frame he).1
  | element => simp
  | mix => simp

theorem step_cfg {s t : State} (h : step s = .next t) : t.cfg = s.cfg := by
  obtain ⟨rest, hmove⟩ := step_move h
  exact hmove.cfg_eq

/-- Settles O6: the next state has the same, well-formed parameters, and the window reads them. -/
theorem buildParametersNeverChange : Obligations.BuildParametersNeverChange := by
  unfold Obligations.BuildParametersNeverChange
  intro s t hstep
  have hcfg := step_cfg hstep
  have hwf : t.cfg.wf = true := hcfg ▸ wf_of_step_next hstep
  rw [← hcfg]
  exact ⟨rfl, Window.toNat_readWindow (off := 0x00#8) hwf rfl, rfl⟩

end Sys2Proof.Invariant

/-! Mixing steps (43_fill.md R109). The idea: the model's mixer is the statements' mixer, and a mixing turn asks only
whether a FILL with elements is in flight. -/

namespace Sys2Proof.Mixing

open Sys2Proof Sys2Proof.Machine Sys2Proof.Reference

/-! ## The mixer over natural numbers -/

theorem toNat_mixA2 (s : Word) :
    ((Machine.mixA2 s).1.toNat, (Machine.mixA2 s).2.toNat) = Reference.mixA2 s.toNat := by
  unfold Machine.mixA2 Reference.mixA2
  dsimp only
  rw [toNat_fold, toNat_fold, BitVec.toNat_add, toNat_mixC1, toNat_mixC2, toNat_mixC3]

theorem toNat_mixA1 (s : Word) :
    ((Machine.mixA1 s).1.toNat, (Machine.mixA1 s).2.toNat) = Reference.mixA1 s.toNat := by
  unfold Machine.mixA1 Reference.mixA1
  dsimp only
  rw [BitVec.toNat_xor, toNat_hi64_mul128, toNat_lo64_mul128, BitVec.toNat_xor, BitVec.toNat_add, toNat_mixC1,
    toNat_mixC4]

theorem toNat_mixB (s : Word) :
    ((Machine.mixB s).1.toNat, (Machine.mixB s).2.toNat) = Reference.mixB s.toNat := by
  unfold Machine.mixB Reference.mixB
  dsimp only
  rw [BitVec.toNat_xor, BitVec.toNat_ushiftRight, toNat_mul64, BitVec.toNat_xor, BitVec.toNat_ushiftRight,
    BitVec.toNat_add, toNat_mixPrime1, toNat_mixPrime3, Nat.shiftRight_eq_div_pow, Nat.shiftRight_eq_div_pow]

/-- The model's mixer is the statements' mixer over natural numbers (40_mixer.md R72 to R75). -/
theorem toNat_mix (k : Strategy) (s : Word) :
    ((Machine.mix k s).1.toNat, (Machine.mix k s).2.toNat) = Reference.mix k s.toNat := by
  cases k with
  | a2 => exact toNat_mixA2 s
  | a1 => exact toNat_mixA1 s
  | b => exact toNat_mixB s

/-! ## The FILL in flight -/

theorem fillCheck_proceed_iff_accepted (c : Config) (b : ElemSize) (o : Operands) :
    fillCheck c b o = .proceed ↔ FillAccepted c b o := by
  have hpos : o.fcount ≠ 0#64 ↔ 0 < o.fcount.toNat := by
    rw [Nat.pos_iff_ne_zero, Ne, ← BitVec.toNat_inj, BitVec.toNat_zero]
  rw [fillCheck_proceed_iff, hpos, FillAccepted]

section NoFill

variable {s : State} {r : InFlight} {i : Instr}

theorem inflightFill_of_idle (h : s.inflight = none) : inflightFill s = none := by
  simp [inflightFill, h]

theorem inflightFill_of_other (hr : s.inflight = some r) (hd : decode r.word = .ok i) (hf : fillForm i = none) :
    inflightFill s = none := by
  simp [inflightFill, hr, hd, hf]

theorem inflightFill_of_empty (hr : s.inflight = some r) (hz : r.ops.fcount = 0#64) : inflightFill s = none := by
  cases hj : inflightFill s with
  | none => rfl
  | some j =>
    obtain ⟨r', i, b, k, hr', -, -, hc, -⟩ := inflightFill_eq_some hj
    obtain rfl : r = r' := Option.some.inj (hr.symm.trans hr')
    exact absurd hz ((fillCheck_proceed_iff _ _ _).mp hc).1

end NoFill

theorem mixTurn_of_no_fill {s : State} (h : inflightFill s = none) : mixTurn s = .next s := by
  simp [mixTurn, h]

/-- A mixing turn with an accepted FILL in flight, as one record update (43_fill.md R109). -/
theorem mixTurn_of_fill {s : State} {r : InFlight} {i : Instr} {b : ElemSize} {k : Strategy}
    (hr : s.inflight = some r) (hd : decode r.word = .ok i) (hf : fillForm i = some (b, k))
    (ha : FillAccepted s.cfg b r.ops) :
    mixTurn s = .next { s with
      fstate := (Machine.mix k s.fstate).1, inflight := some { r with mixed := r.mixed + 1 } } := by
  have hj := inflightFill_of hr hd hf ((fillCheck_proceed_iff_accepted _ _ _).mpr ha)
  rcases mixTurn_cases s with ⟨hnone, -⟩ | ⟨j, r', hj', hr', h⟩
  · rw [hj] at hnone
    cases hnone
  · rw [hj] at hj'
    cases hj'
    obtain rfl : r = r' := Option.some.inj (hr.symm.trans hr')
    exact h

/-- Settles O57: one step of the mixer where a FILL with elements is in flight, and nothing elsewhere. -/
theorem mixingTurnAdvancesFstate : Obligations.MixingTurnAdvancesFstate := by
  unfold Obligations.MixingTurnAdvancesFstate
  intro s rest hwf he
  have hstep : step s = mixTurn (popped s rest) := step_event hwf he
  refine ⟨fun r i b k hr hd hf ha => ?_, fun h => ?_⟩
  · have hturn := mixTurn_of_fill (s := popped s rest) hr hd hf ha
    exact ⟨_, hstep.trans hturn, congrArg Prod.fst (toNat_mix k s.fstate), rfl⟩
  · refine hstep.trans (mixTurn_of_no_fill ?_)
    rcases h with hidle | ⟨r, i, hr, hd, hf | hz⟩
    · exact inflightFill_of_idle hidle
    · exact inflightFill_of_other hr hd hf
    · exact inflightFill_of_empty hr hz

end Sys2Proof.Mixing

/-! What the model refuses (00_scope.md R14, 20_memory.md R50, R53). The idea: each refusal is one test of the model,
compared once with the statements' own condition, and one equation for the step or the command where the test fails. -/

namespace Sys2Proof.Refusals

open Sys2Proof Sys2Proof.Machine Sys2Proof.Reference

/-! ## The host's accesses -/

theorem mmioSupported_eq_false_iff (w : Width) (off : BitVec 8) :
    mmioSupported w off = false ↔
      w = .w8 ∨ w = .w16 ∨ (w = .w32 ∧ off.toNat % 4 ≠ 0) ∨ (w = .w64 ∧ off.toNat % 8 ≠ 0) := by
  cases w with
  | w8 | w16 => simp [mmioSupported]
  | w32 | w64 => simp [mmioSupported]

theorem hostRead_of_unsupported {w : Width} {off : BitVec 8} (h : mmioSupported w off = false) (s : State) :
    hostRead w off s = .refused .unsupportedAccess := by
  simp [hostRead, h]

theorem hostWrite_of_unsupported {w : Width} {off : BitVec 8} (h : mmioSupported w off = false) (v : Word)
    (s : State) : hostWrite w off v s = .refused .unsupportedAccess := by
  simp [hostWrite, h]

theorem step_of_not_wf {s : State} (h : s.cfg.wf = false) : step s = .refused .badConfiguration := by
  simp [step, h]

/-- Settles O23: the next event's access is handed to the host's read or write, which tests its width and alignment; the
configuration is tested before any event. -/
theorem unsupportedAccessesAreRefused : Obligations.UnsupportedAccessesAreRefused := by
  unfold Obligations.UnsupportedAccessesAreRefused
  refine fun s rest => ⟨fun hwf w off v hbad hev => ?_, step_of_not_wf⟩
  have hunsup := (mmioSupported_eq_false_iff w off).mpr hbad
  rcases hev with hread | hwrite
  · exact (step_event hwf hread).trans (hostRead_of_unsupported hunsup _)
  · exact (step_event hwf hwrite).trans (hostWrite_of_unsupported hunsup v _)

/-! ## A FILL aimed at a device region -/

theorem touches_iff_overlaps (r : Region) (a len : Nat) : r.touches a len = true ↔ Overlaps r a len := by
  simp [Region.touches, Overlaps]

theorem regionsTouch_iff (rs : List Region) (k : RegionKind) (a len : Nat) :
    regionsTouch rs k a len = true ↔ ∃ r ∈ rs, r.kind = k ∧ Overlaps r a len := by
  simp [regionsTouch, touches_iff_overlaps]

theorem onDevice_fillJob_iff (rs : List Region) (c : Config) (b : ElemSize) (k : Strategy) (o : Operands) :
    onDevice rs (fillJob c b k o) = true ↔
      ∃ r ∈ rs, r.kind = .device ∧ Overlaps r o.fdst.toNat (o.fcount.toNat * elemBytes b) :=
  regionsTouch_iff rs .device o.fdst.toNat (o.fcount.toNat * elemBytes b)

theorem fillCommand_of_accepted {b : ElemSize} {s : State} (h : FillAccepted s.cfg b s.operands) (k : Strategy) :
    fillCommand b k s = performFill (fillJob s.cfg b k s.operands) s := by
  simp [fillCommand, (Mixing.fillCheck_proceed_iff_accepted _ _ _).mpr h]

theorem performFill_of_onDevice {j : FillJob} {s : State} (h : onDevice s.regions j = true) :
    performFill j s = .refused .deviceTarget := by
  simp [performFill, h]

/-- One argument for all six FILL commands: an accepted one is performed, and the map is tested before any write. -/
theorem fillRefusesDevice_of_fillForm {i : Instr} {b : ElemSize} {k : Strategy} (hf : fillForm i = some (b, k)) :
    FillRefusesDevice i b := by
  intro s haccepted hdevice
  calc exec i s
      = fillCommand b k s := exec_fill hf s
    _ = performFill (fillJob s.cfg b k s.operands) s := fillCommand_of_accepted haccepted k
    _ = .refused .deviceTarget :=
        performFill_of_onDevice ((onDevice_fillJob_iff s.regions s.cfg b k s.operands).mpr hdevice)

/-- Settles O50: the six commands of R120 to R125 are FILLs of the named widths. -/
theorem deviceTargetIsRefused : Obligations.DeviceTargetIsRefused := by
  unfold Obligations.DeviceTargetIsRefused
  exact ⟨fillRefusesDevice_of_fillForm rfl, fillRefusesDevice_of_fillForm rfl, fillRefusesDevice_of_fillForm rfl,
    fillRefusesDevice_of_fillForm rfl, fillRefusesDevice_of_fillForm rfl, fillRefusesDevice_of_fillForm rfl⟩

end Sys2Proof.Refusals

/-! The opcode map and its mnemonics (30_encoding.md R63 to R70). The idea: a word is its three fields, so the fields
that decode reads determine the word, and each row of `decodeFields` is a row of `encode`. -/

namespace Sys2Proof.Encoding

open Sys2Proof Sys2Proof.Machine Sys2Proof.Reference

/-! ## Words and commands -/

/-- Format C as a number: OP at bit 24, SUB at bit 20 (30_encoding.md R64). -/
theorem toNat_formatC (op : BitVec 8) (sub : BitVec 4) :
    (formatC op sub).toNat = op.toNat * 2 ^ 24 + sub.toNat * 2 ^ 20 := by
  simp (disch := omega) only [formatC, BitVec.toNat_or, BitVec.toNat_shiftLeft, BitVec.toNat_setWidth, Nat.shiftLeft_eq,
    Nat.mod_eq_of_lt]
  rw [Nat.mul_comm, ← Nat.two_pow_add_eq_or_of_lt (by omega)]

/-- A word with RSV = 0 is determined by OP and SUB (30_encoding.md R64). -/
theorem formatC_fields {w : Half} (h : rsvField w = 0#20) : formatC (opField w) (subField w) = w := by
  have hrsv : w.toNat % 2 ^ 20 = 0 := congrArg BitVec.toNat h
  have hop : (opField w).toNat = w.toNat / 2 ^ 24 % 2 ^ 8 := by
    rw [opField, BitVec.extractLsb'_toNat, Nat.shiftRight_eq_div_pow]
  have hsub : (subField w).toNat = w.toNat / 2 ^ 20 % 2 ^ 4 := by
    rw [subField, BitVec.extractLsb'_toNat, Nat.shiftRight_eq_div_pow]
  apply BitVec.eq_of_toNat_eq
  rw [toNat_formatC, hop, hsub]
  omega

/-- The two ways decode goes (30_encoding.md R66, R68 (2)). -/
theorem decode_eq_ok_iff_fields (w : Half) (i : Instr) :
    decode w = .ok i ↔ rsvField w = 0#20 ∧ decodeFields (opField w).toNat (subField w).toNat = .ok i := by
  unfold decode
  split <;> simp [*]

/-- Each row of the decoder's map is a row of the encoder's. -/
theorem formatC_of_decodeFields {op sub : Nat} {i : Instr} (h : decodeFields op sub = .ok i) :
    formatC (BitVec.ofNat 8 op) (BitVec.ofNat 4 sub) = encode i := by
  unfold decodeFields at h
  split at h
  case h_7 => cases h -- OP is not in the map
  all_goals split at h <;> cases h <;> rfl

theorem decode_encode (i : Instr) : decode (encode i) = .ok i := by
  cases i <;> rfl

/-- Exact match (30_encoding.md R66): a command's own word is the only one that decodes to it. -/
theorem decode_eq_ok_iff (w : Half) (i : Instr) : decode w = .ok i ↔ w = encode i := by
  constructor
  · intro h
    obtain ⟨hrsv, hfields⟩ := (decode_eq_ok_iff_fields w i).mp h
    have hrow := formatC_of_decodeFields hfields
    rwa [BitVec.ofNat_toNat, BitVec.ofNat_toNat, BitVec.setWidth_eq, BitVec.setWidth_eq, formatC_fields hrsv] at hrow
  · rintro rfl
    exact decode_encode i

/-- The encoder's words are the printed ones. -/
theorem toNat_encode (i : Instr) : (encode i).toNat = opcodeWord i := by
  cases i <;> rfl

theorem eq_encode_iff (w : Half) (i : Instr) : w = encode i ↔ w.toNat = opcodeWord i := by
  rw [← toNat_encode, BitVec.toNat_inj]

theorem decodeTableWord_of_decode {w : Half} {i : Instr} (h : decode w = .ok i) :
    decodeTableWord 32 w.toNat = some i := by
  have hw : BitVec.ofNat 32 (w.toNat % 2 ^ 32) = w := by
    rw [Nat.mod_eq_of_lt w.isLt, BitVec.ofNat_toNat, BitVec.setWidth_eq]
  rw [decodeTableWord, if_pos le_rfl, hw, h]

/-- Settles O8: exact match over words, and the encoder's words as the printed ones. -/
theorem decodeIsExactMatch : Obligations.DecodeIsExactMatch := by
  unfold Obligations.DecodeIsExactMatch
  refine ⟨fun w i => (decode_eq_ok_iff w i).trans (eq_encode_iff w i), fun i => ⟨?_, decode_encode i, ?_⟩⟩
  · cases i <;> rfl
  · rw [← toNat_encode]
    exact decodeTableWord_of_decode (decode_encode i)

/-- Settles O9: each word is the printed one, by exact match. -/
theorem opcodeMapWordsDecode : Obligations.OpcodeMapWordsDecode := by
  unfold Obligations.OpcodeMapWordsDecode
  simp only [decode_eq_ok_iff, eq_encode_iff]
  exact ⟨rfl, rfl, rfl, rfl, rfl, rfl⟩

/-! ## Submission of an illegal word -/

/-- A word that matches no row is illegal (30_encoding.md R68). -/
theorem decode_eq_error_of_unlisted {w : Half} (h : ∀ i, w.toNat ≠ opcodeWord i) : ∃ e, decode w = .error e := by
  cases hd : decode w with
  | error e => exact ⟨e, rfl⟩
  | ok i => exact absurd ((eq_encode_iff w i).mp ((decode_eq_ok_iff w i).mp hd)) (h i)

theorem submit_of_error {word : Half} {e : DecodeError} (h : decode word = .error e) (s : State) :
    submit word s = s.raiseError .illegal := by
  simp [submit, h]

/-- CMD's low half while BUSY = 0 (10_state.md R24). -/
theorem writeReg_cmd_idle {s : State} (h : s.inflight = none) {l : Lane} (hl : l ≠ .high) (v : Word) :
    writeReg s .cmd l v = submit (v.extractLsb' 0 32) s := by
  have hidle := (Invariant.busy_eq_false_iff s).mpr h
  cases l with
  | whole | low => simp [writeReg, hidle]
  | high => exact absurd rfl hl

/-- A CMD write to an idle block submits its word, by either width (10_state.md R24). -/
theorem step_submit {s : State} {word : Half} {rest : List Event} (hwf : s.cfg.wf = true) (hidle : s.inflight = none)
    (hsub : SubmitsNext s word rest) : step s = .next (submit word (popped s rest)) := by
  obtain ⟨w, v, hw, rfl, he⟩ := hsub
  have hsup : mmioSupported w 0x10#8 = true := by rcases hw with rfl | rfl <;> rfl
  have hidle' : (popped s rest).inflight = none := hidle
  rw [Window.step_write hwf hsup he, Window.writeWindow_of_slot (off := 0x10#8) _ w v (r := .cmd) rfl,
    writeReg_cmd_idle hidle' (Window.laneOf_ne_high w rfl)]

theorem raiseError_of_idle {s : State} (h : s.inflight = none) (e : ErrCode) :
    s.raiseError e = { s with lastErr := e, errs := true } := by
  rw [State.raiseError, ← h]

/-- Settles O10: the word fails decode, and on an idle block the rejection has nothing in flight to end. -/
theorem illegalWordsAreRejected : Obligations.IllegalWordsAreRejected := by
  unfold Obligations.IllegalWordsAreRejected
  intro s word rest hwf hidle hsub hunlisted
  obtain ⟨e, he⟩ := decode_eq_error_of_unlisted hunlisted
  have hidle' : (popped s rest).inflight = none := hidle
  rw [step_submit hwf hidle hsub, submit_of_error he, raiseError_of_idle hidle']

/-! ## Mnemonics -/

theorem mem_all (i : Instr) : i ∈ Instr.all := by
  cases i <;> decide

/-- No two rows of the map have one mnemonic (30_encoding.md R66). -/
theorem mnemonics_nodup : (Instr.all.map Instr.mnemonic).Nodup := by decide

theorem mnemonic_injective : Function.Injective Instr.mnemonic := fun i j h =>
  List.inj_on_of_nodup_map mnemonics_nodup (mem_all i) (mem_all j) h

theorem commandOfMnemonic_mnemonic (i : Instr) : commandOfMnemonic i.mnemonic = some i := by
  have hfind : Instr.all.find? (fun j => j.mnemonic == i.mnemonic) = some i := by
    cases h : Instr.all.find? (fun j => j.mnemonic == i.mnemonic) with
    | none => exact absurd (beq_self_eq_true i.mnemonic) (List.find?_eq_none.mp h i (mem_all i))
    | some j =>
      have hname : (j.mnemonic == i.mnemonic) = true := by simpa using List.find?_some h
      rw [mnemonic_injective (beq_iff_eq.mp hname)]
  simp [commandOfMnemonic, hfind]

/-- None of the aliases is a mnemonic of the map, and each names its own command (30_encoding.md R70). -/
theorem commandOfMnemonic_mnemonicAliases : ∀ p ∈ mnemonicAliases, commandOfMnemonic p.1 = some p.2 := by decide

/-- Settles O11: the mnemonics are distinct, and the aliases are found behind them. -/
theorem mnemonicsNameTheirCommands : Obligations.MnemonicsNameTheirCommands := by
  unfold Obligations.MnemonicsNameTheirCommands
  refine ⟨commandOfMnemonic_mnemonic, ?_⟩
  simpa [mnemonicAliases] using commandOfMnemonic_mnemonicAliases

end Sys2Proof.Encoding

/-! The mixer (40_mixer.md). The idea: a MIXP command is its mixing function applied to ARG0, the state of A2 and A1
moves by adding C1, and the step of B is a chain of four injective maps of 64-bit values. -/

namespace Sys2Proof.Mixer

open Sys2Proof Sys2Proof.Machine

/-! ## The MIXP commands -/

/-- A MIXP command whose mixing function computes `g` completes with `g` of ARG0 in OUT and changes nothing else but
LASTERR and BUSY (40_mixer.md R78 to R80). -/
theorem mixpCommand_gives {f : Word → Word × Word} {g : Nat → Nat × Nat}
    (hfg : ∀ x, ((f x).1.toNat, (f x).2.toNat) = g x.toNat) (s : State) :
    ∃ t, mixpCommand f s = .next t ∧ (t.outHi.toNat, t.outLo.toNat) = g s.operands.arg0.toNat ∧
      t = { s with outLo := t.outLo, outHi := t.outHi, lastErr := .none, inflight := none } :=
  ⟨_, mixpCommand_next f s, hfg s.operands.arg0, rfl⟩

/-- Settles O24: MIXP.A2 is the MIXP command of the double-fold function. -/
theorem mixpA2GivesDoubleFold : Obligations.MixpA2GivesDoubleFold := by
  unfold Obligations.MixpA2GivesDoubleFold
  intro s
  rw [exec_mixpA2, execMixpA2]
  exact mixpCommand_gives Mixing.toNat_mixA2 s

/-- Settles O25: MIXP.A1 is the MIXP command of the single-fold function. -/
theorem mixpA1GivesSingleFold : Obligations.MixpA1GivesSingleFold := by
  unfold Obligations.MixpA1GivesSingleFold
  intro s
  rw [exec_mixpA1, execMixpA1]
  exact mixpCommand_gives Mixing.toNat_mixA1 s

/-- Settles O26: MIXP.B is the MIXP command of the function whose word is its next state, so the halves of OUT are
equal as numbers. -/
theorem mixpBGivesXorshiftMultiply : Obligations.MixpBGivesXorshiftMultiply := by
  unfold Obligations.MixpBGivesXorshiftMultiply
  intro s
  rw [exec_mixpB, execMixpB]
  obtain ⟨t, hnext, hout, hframe⟩ := mixpCommand_gives Mixing.toNat_mixB s
  obtain ⟨hhi, hlo⟩ := Prod.mk.inj hout
  exact ⟨t, hnext, hout, BitVec.eq_of_toNat_eq (hlo.trans hhi.symm), hframe⟩

/-! ## The state sequences -/

theorem mix_a2_state (s : Word) : (mix .a2 s).1 = s + mixC1 := rfl

theorem mix_a1_state (s : Word) : (mix .a1 s).1 = s + mixC1 := rfl

/-- A strategy whose step adds C1 has added it `n` times after `n` steps (40_mixer.md R76). -/
theorem toNat_streamState_of_add {k : Strategy} (hk : ∀ s, (mix k s).1 = s + mixC1) (s : Word) (n : Nat) :
    (streamState k s n).toNat = (s.toNat + n * 0x60bee2bee120fc15) % 2 ^ 64 := by
  induction n with
  | zero => rw [streamState, Nat.zero_mul, Nat.add_zero, Nat.mod_eq_of_lt s.isLt]
  | succ n ih =>
    rw [streamState, hk, BitVec.toNat_add, toNat_mixC1, ih, Nat.mod_add_mod, Nat.succ_mul, Nat.add_assoc]

/-- Folding a value with its logical right shift loses nothing: the difference of two values with one image equals its
own shift, so it is 0. -/
theorem xor_ushiftRight_injective {w k : Nat} (hk : 0 < k) :
    Function.Injective (fun x : BitVec w => x ^^^ (x >>> k)) := by
  intro x y (h : x ^^^ (x >>> k) = y ^^^ (y >>> k))
  have hcancel : (x ^^^ y) ^^^ ((x ^^^ y) >>> k) = 0#w := calc
    (x ^^^ y) ^^^ ((x ^^^ y) >>> k) = (x ^^^ (x >>> k)) ^^^ (y ^^^ (y >>> k)) := by
      rw [BitVec.ushiftRight_xor_distrib]; ac_rfl
    _ = 0#w := by rw [h, BitVec.xor_self]
  have hshift : x ^^^ y = (x ^^^ y) >>> k := BitVec.xor_eq_zero_iff.mp hcancel
  have hnat : (x ^^^ y).toNat = (x ^^^ y).toNat / 2 ^ k := by
    rw [← Nat.shiftRight_eq_div_pow, ← BitVec.toNat_ushiftRight, ← hshift]
  have hzero : (x ^^^ y).toNat = 0 :=
    (Nat.div_eq_self.mp hnat.symm).resolve_right (Nat.one_lt_two_pow hk.ne').ne'
  exact BitVec.xor_eq_zero_iff.mp (BitVec.eq_of_toNat_eq hzero)

/-- Multiplication by an odd constant loses nothing modulo 2^64. -/
theorem mul64_injective_of_odd {c : Word} (hc : Odd c.toNat) : Function.Injective (fun x => mul64 x c) := by
  intro x y (h : mul64 x c = mul64 y c)
  have hmod : x.toNat * c.toNat ≡ y.toNat * c.toNat [MOD 2 ^ 64] := by
    rw [Nat.ModEq, ← toNat_mul64, ← toNat_mul64, h]
  have hcop : Nat.gcd (2 ^ 64) c.toNat = 1 := (Nat.coprime_two_left.mpr hc).pow_left 64
  exact BitVec.eq_of_toNat_eq ((hmod.cancel_right_of_coprime hcop).eq_of_lt_of_lt x.isLt y.isLt)

/-- The step of B as the chain of its four maps (40_mixer.md R74). -/
theorem mix_b_state : (fun s : Word => (mix .b s).1) =
    (fun x : Word => x ^^^ (x >>> 32)) ∘ (fun x => mul64 x mixPrime3) ∘ (fun x : Word => x ^^^ (x >>> 29)) ∘
      (fun x => x + mixPrime1) := rfl

theorem mix_b_state_injective : Function.Injective (fun s : Word => (mix .b s).1) := by
  have hodd : Odd mixPrime3.toNat := by rw [toNat_mixPrime3]; decide
  rw [mix_b_state]
  exact (xor_ushiftRight_injective (by decide)).comp <| (mul64_injective_of_odd hodd).comp <|
    (xor_ushiftRight_injective (by decide)).comp (add_left_injective mixPrime1)

/-- Settles O27: A2 and A1 by induction on the steps; B because an injective map of a finite type is a bijection. -/
theorem stateSequencesOfTheMixer : Obligations.StateSequencesOfTheMixer := by
  unfold Obligations.StateSequencesOfTheMixer
  exact ⟨fun s n => ⟨toNat_streamState_of_add mix_a2_state s n, toNat_streamState_of_add mix_a1_state s n⟩,
    Finite.injective_iff_bijective.mp mix_b_state_injective⟩

/-! ## The degenerate states -/

theorem mixA2_of_add_eq_zero {s : Word} (h : s + mixC1 = 0#64) : mixA2 s = (0#64, 0#64) := by
  rw [mixA2, h]
  decide

theorem mixA1_of_add_eq_zero {s : Word} (h : s + mixC1 = 0#64) : mixA1 s = (0#64, 0#64) := by
  rw [mixA1, h]
  decide

theorem mixB_of_add_eq_zero {s : Word} (h : s + mixPrime1 = 0#64) : mixB s = (0#64, 0#64) := by
  rw [mixB, h]
  decide

/-- Settles O28: each degenerate state cancels the constant that its strategy adds first; from state 0 the step gives
the constant itself and its word, which are computed. -/
theorem degenerateStatesOfTheMixer : Obligations.DegenerateStatesOfTheMixer := by
  unfold Obligations.DegenerateStatesOfTheMixer
  refine ⟨mixA2_of_add_eq_zero (by decide), mixA1_of_add_eq_zero (by decide), mixB_of_add_eq_zero (by decide), ?_⟩
  intro k
  cases k with
  | a2 | a1 | b => decide

end Sys2Proof.Mixer

/-! The engine (41_engine.md). The idea: the model's stream of words is the statements' stream, the bytes a draw serves
are the digits of its result, and an engine that has given `i` words of a seed's stream stands before word `i`, whether
it buffers or not. -/

namespace Sys2Proof.Draws

open Sys2Proof Sys2Proof.Machine Sys2Proof.Reference

/-! ## The stream of words -/

theorem toNat_mix_state (k : Strategy) (s : Word) : (Machine.mix k s).1.toNat = (Reference.mix k s.toNat).1 :=
  congrArg Prod.fst (Mixing.toNat_mix k s)

theorem toNat_mix_word (k : Strategy) (s : Word) : (Machine.mix k s).2.toNat = (Reference.mix k s.toNat).2 :=
  congrArg Prod.snd (Mixing.toNat_mix k s)

theorem toNat_streamState (k : Strategy) (s : Word) (n : Nat) :
    (streamState k s n).toNat = stateAfter k s.toNat n := by
  induction n with
  | zero => rfl
  | succ n ih => rw [streamState, stateAfter, toNat_mix_state, ih]

theorem toNat_streamWord (k : Strategy) (s : Word) (n : Nat) : (streamWord k s n).toNat = wordAfter k s.toNat n := by
  rw [streamWord, wordAfter, toNat_mix_word, toNat_streamState]

theorem streamWord_add (k : Strategy) (s : Word) (n m : Nat) :
    streamWord k (streamState k s n) m = streamWord k s (n + m) := by
  rw [streamWord, streamWord, streamState_add]

/-- `n` mixing steps give the first `n` words of the stream and the state after them. -/
theorem mixSteps_eq (k : Strategy) (n : Nat) (s : Word) :
    mixSteps k n s = ((List.range n).map (streamWord k s), streamState k s n) := by
  induction n generalizing s with
  | zero => rfl
  | succ n ih =>
    have hword (m : Nat) : streamWord k (Machine.mix k s).1 m = streamWord k s (m + 1) := by
      rw [Nat.add_comm]
      exact streamWord_add k s 1 m
    have hstate : streamState k (Machine.mix k s).1 n = streamState k s (n + 1) := by
      rw [Nat.add_comm]
      exact streamState_add k s 1 n
    rw [mixSteps, ih, hstate, List.range_succ_eq_map, List.map_cons, List.map_map,
      List.map_congr_left fun m _ => hword m]
    rfl

/-! ## Bytes -/

theorem toNat_byteOf (w : Word) (j : Nat) : (byteOf w j).toNat = byteAt w.toNat j := by
  rw [byteOf, BitVec.extractLsb'_toNat, Nat.shiftRight_eq_div_pow, byteAt]

theorem toNat_bufByte (buf : List Word) (i : Nat) : (Machine.bufByte buf i).toNat = Reference.bufByte buf i :=
  toNat_byteOf ..

theorem leValue_lt (f : Nat → Byte) (n : Nat) : leValue f n < 2 ^ (8 * n) := by
  induction n with
  | zero => exact Nat.one_pos
  | succ n ih =>
    have hbyte := (f n).isLt
    rw [leValue, Nat.mul_succ, Nat.pow_add]
    nlinarith

/-- What stands from byte `n` on does not reach a byte below it. -/
theorem byteAt_add_mul_pow {j n : Nat} (h : j < n) (low high : Nat) :
    byteAt (low + high * 2 ^ (8 * n)) j = byteAt low j := by
  obtain ⟨d, rfl⟩ := Nat.exists_eq_add_of_lt h
  have hsplit : high * 2 ^ (8 * (j + d + 1)) = high * 2 ^ (8 * d) * 256 * 2 ^ (8 * j) := by ring
  rw [byteAt, byteAt, hsplit, Nat.add_mul_div_right _ _ (Nat.two_pow_pos _), Nat.add_mul_mod_self_right]

/-- The bytes of a little-endian value are the bytes it was made from. -/
theorem byteAt_leValue (f : Nat → Byte) {j n : Nat} (h : j < n) : byteAt (leValue f n) j = (f j).toNat := by
  induction n with
  | zero => omega
  | succ n ih =>
    rw [leValue]
    rcases Nat.lt_succ_iff_lt_or_eq.mp h with hlt | rfl
    · rw [byteAt_add_mul_pow hlt, ih hlt]
    · rw [byteAt, Nat.add_mul_div_right _ _ (Nat.two_pow_pos _), Nat.div_eq_of_lt (leValue_lt f j), Nat.zero_add]
      exact Nat.mod_eq_of_lt (f j).isLt

theorem leValue_congr {f g : Nat → Byte} {n : Nat} (h : ∀ j, j < n → f j = g j) : leValue f n = leValue g n := by
  induction n with
  | zero => rfl
  | succ n ih => rw [leValue, leValue, ih fun j hj => h j (by omega), h n (by omega)]

theorem leValue_byteOf (w : Word) (n : Nat) : leValue (byteOf w) n = w.toNat % 2 ^ (8 * n) := by
  induction n with
  | zero => exact (Nat.mod_one _).symm
  | succ n ih => rw [leValue, ih, toNat_byteOf, byteAt, Nat.mul_succ, Nat.pow_add, Nat.mod_mul,
    Nat.mul_comm (2 ^ (8 * n))]

theorem toNat_lo64 (q : Quad) : (lo64 q).toNat = q.toNat % 2 ^ 64 := by
  rw [lo64, BitVec.extractLsb'_toNat, Nat.shiftRight_zero]

theorem toNat_hi64 (q : Quad) : (hi64 q).toNat = q.toNat / 2 ^ 64 := by
  have h := q.isLt
  rw [hi64, BitVec.extractLsb'_toNat, Nat.shiftRight_eq_div_pow, Nat.mod_eq_of_lt (by omega)]

/-- OUT's 128 bits hold any 16 bytes. -/
theorem toNat_ofNat_of_lt {b n : Nat} (hb : b ≤ 16) (hn : n < 2 ^ (8 * b)) : (BitVec.ofNat 128 n).toNat = n := by
  have hle : 2 ^ (8 * b) ≤ 2 ^ 128 := Nat.pow_le_pow_right (by decide) (by omega)
  rw [BitVec.toNat_ofNat, Nat.mod_eq_of_lt (by omega)]

theorem toNat_lowBytes (w : Word) {b : Nat} (hb : b ≤ 16) : (lowBytes w b).toNat = w.toNat % 2 ^ (8 * b) :=
  toNat_ofNat_of_lt hb (Nat.mod_lt _ (Nat.two_pow_pos _))

theorem lo64_eq_of_toNat {q : Quad} {w : Word} (h : q.toNat = w.toNat % 2 ^ (8 * 8)) : lo64 q = w := by
  apply BitVec.eq_of_toNat_eq
  rw [toNat_lo64, h, Nat.mod_mod, Nat.mod_eq_of_lt w.isLt]

/-! ## Draws -/

/-- The result of a DRAW in OUT (41_engine.md, section 2). -/
theorem out_of_halves {t : State} {q : Quad} (hlo : t.outLo = lo64 q) (hhi : t.outHi = hi64 q) :
    Reference.out t = q.toNat := by
  rw [Reference.out, hlo, hhi, toNat_lo64, toNat_hi64, Nat.mod_add_div]

/-- The five DRAW commands and their numbers of bytes (41_engine.md R88 to R92). -/
theorem exec_of_draw {p : Instr × Nat}
    (hp : p ∈ [(Instr.drawB, 1), (Instr.drawH, 2), (Instr.drawW, 4), (Instr.drawD, 8), (Instr.drawQ, 16)])
    (s : State) : exec p.1 s = drawCommand p.2 s := by
  simp only [List.mem_cons, List.not_mem_nil, or_false] at hp
  rcases hp with rfl | rfl | rfl | rfl | rfl
  · exact exec_drawB s
  · exact exec_drawH s
  · exact exec_drawW s
  · exact exec_drawD s
  · exact exec_drawQ s

section Draw

variable {c : Config} {b : Nat} {e : Engine}

theorem draw_of_unbuffered (hu : c.engUnroll ≤ 1) : draw c b e = drawUnbuffered c b e := by
  have hbuf : buffered c = false := by simpa [buffered] using hu
  simp [draw, hbuf]

theorem draw_of_buffered (hu : 1 < c.engUnroll) : draw c b e = drawBuffered c b e := by
  have hbuf : buffered c = true := by simpa [buffered] using hu
  simp [draw, hbuf]

theorem draw_of_fits (hu : 1 < c.engUnroll) (h : e.cursor.toNat + b ≤ 8 * c.engUnroll) : draw c b e = serve b e := by
  rw [draw_of_buffered hu, drawBuffered, if_neg (Nat.not_lt.mpr h)]

theorem draw_of_crosses (hu : 1 < c.engUnroll) (h : 8 * c.engUnroll < e.cursor.toNat + b) :
    draw c b e = serve b (refill c e) := by
  rw [draw_of_buffered hu, drawBuffered, if_pos h]

theorem drawUnbuffered_narrow (hb : b ≤ 8) : drawUnbuffered c b e =
    (lowBytes (Machine.mix c.engStrat e.st).2 b, { e with st := (Machine.mix c.engStrat e.st).1 }) := if_pos hb

theorem drawUnbuffered_wide (hb : 8 < b) : drawUnbuffered c b e =
    (concat64 (streamWord c.engStrat e.st 1) (streamWord c.engStrat e.st 0),
      { e with st := streamState c.engStrat e.st 2 }) := if_neg (Nat.not_le.mpr hb)

theorem refill_eq (c : Config) (e : Engine) : refill c e = ⟨streamState c.engStrat e.st c.engUnroll, 0#10,
    (List.range c.engUnroll).map (streamWord c.engStrat e.st)⟩ := by
  rw [refill, mixSteps_eq]

/-- Word `n` of the buffer after a refill. -/
theorem refill_buf_getD {n : Nat} (hn : n < c.engUnroll) :
    (refill c e).buf.getD n 0#64 = streamWord c.engStrat e.st n := by
  simp [refill_eq, hn]

theorem toNat_serve (hb : b ≤ 16) :
    (serve b e).1.toNat = leValue (fun j => Machine.bufByte e.buf (e.cursor.toNat + j)) b :=
  toNat_ofNat_of_lt hb (leValue_lt ..)

/-- A served value holds the buffer's bytes from CURSOR on, and nothing above them. -/
theorem serve_gives (hb : b ≤ 16) (e : Engine) :
    (∀ j, j < b → byteAt (serve b e).1.toNat j = Reference.bufByte e.buf (e.cursor.toNat + j)) ∧
      (serve b e).1.toNat < 2 ^ (8 * b) := by
  rw [toNat_serve hb]
  exact ⟨fun j hj => (byteAt_leValue _ hj).trans (toNat_bufByte ..), leValue_lt ..⟩

theorem toNat_serve_cursor (hc : c.wf = true) (h : e.cursor.toNat + b ≤ 8 * c.engUnroll) :
    (serve b e).2.cursor.toNat = e.cursor.toNat + b := Invariant.toNat_cursor_of_le hc h

end Draw

/-! ## The commands -/

/-- CURSOR after SEED: its ten bits hold the offset of the buffer's end (41_engine.md R87). -/
theorem toNat_cursor_of_seed {c : Config} (hc : c.wf = true) (cursor : BitVec 10) :
    (if buffered c then BitVec.ofNat 10 (8 * c.engUnroll) else cursor).toNat =
      if c.engUnroll > 1 then 8 * c.engUnroll else cursor.toNat := by
  by_cases hu : c.engUnroll > 1
  · simp only [buffered, hu, decide_true, if_true]
    exact Invariant.toNat_cursor_of_le hc le_rfl
  · simp [buffered, hu]

/-- Settles O29: SEED is one record update, whose CURSOR fits its ten bits in a well-formed build. -/
theorem seedSetsStateAndExhaustsBuffer : Obligations.SeedSetsStateAndExhaustsBuffer := by
  unfold Obligations.SeedSetsStateAndExhaustsBuffer
  intro s hc
  rw [exec_seed]
  exact ⟨_, execSeed_next s, rfl, toNat_cursor_of_seed hc s.cursor, rfl⟩

/-- An unbuffered DRAW of at most one word (41_engine.md R83). -/
theorem drawCommand_narrow {s : State} (hu : s.cfg.engUnroll ≤ 1) {b : Nat} (hb : b ≤ 8) :
    ∃ t, drawCommand b s = .next t ∧
      t.engState.toNat = (Reference.mix s.cfg.engStrat s.engState.toNat).1 ∧
      Reference.out t = (Reference.mix s.cfg.engStrat s.engState.toNat).2 % 2 ^ (8 * b) ∧
      t = { s with engState := t.engState, outLo := t.outLo, outHi := t.outHi,
                   lastErr := .none, inflight := none } := by
  have hdraw := (draw_of_unbuffered hu).trans (drawUnbuffered_narrow (e := s.engine) hb)
  rw [drawCommand_next, hdraw]
  refine ⟨_, rfl, toNat_mix_state .., ?_, rfl⟩
  rw [out_of_halves rfl rfl, toNat_lowBytes _ (by omega), toNat_mix_word]
  rfl

/-- An unbuffered DRAW of two words (41_engine.md R83). -/
theorem drawCommand_wide {s : State} (hu : s.cfg.engUnroll ≤ 1) :
    ∃ t, drawCommand 16 s = .next t ∧
      t.engState.toNat = stateAfter s.cfg.engStrat s.engState.toNat 2 ∧
      t.outLo.toNat = wordAfter s.cfg.engStrat s.engState.toNat 0 ∧
      t.outHi.toNat = wordAfter s.cfg.engStrat s.engState.toNat 1 ∧
      t = { s with engState := t.engState, outLo := t.outLo, outHi := t.outHi,
                   lastErr := .none, inflight := none } := by
  have hdraw := (draw_of_unbuffered hu).trans (drawUnbuffered_wide (e := s.engine) (by decide : 8 < 16))
  rw [drawCommand_next, hdraw, lo64_concat64, hi64_concat64]
  exact ⟨_, rfl, toNat_streamState .., toNat_streamWord .., toNat_streamWord .., rfl⟩

/-- Settles O30: the narrow draws are one case, DRAW.Q the other. -/
theorem unbufferedDraws : Obligations.UnbufferedDraws := by
  unfold Obligations.UnbufferedDraws
  intro s hu
  constructor
  · intro p hp
    have hb : ∀ p ∈ [(Instr.drawB, 1), (Instr.drawH, 2), (Instr.drawW, 4), (Instr.drawD, 8)], p.2 ≤ 8 := by decide
    rw [exec_of_draw (List.mem_append_left [(Instr.drawQ, 16)] hp)]
    exact drawCommand_narrow hu (hb p hp)
  · rw [exec_drawQ, execDrawQ]
    exact drawCommand_wide hu

section Buffered

variable {s : State} {b : Nat}

/-- A buffered DRAW that fits before the buffer's end (41_engine.md R84). -/
theorem drawCommand_fits (hc : s.cfg.wf = true) (hu : 1 < s.cfg.engUnroll) (hb : b ≤ 16)
    (h : s.cursor.toNat + b ≤ 8 * s.cfg.engUnroll) :
    ∃ t, drawCommand b s = .next t ∧
      (∀ j, j < b → byteAt (Reference.out t) j = Reference.bufByte s.buf (s.cursor.toNat + j)) ∧
      Reference.out t < 2 ^ (8 * b) ∧ t.cursor.toNat = s.cursor.toNat + b ∧
      t = { s with cursor := t.cursor, outLo := t.outLo, outHi := t.outHi, lastErr := .none, inflight := none } := by
  rw [drawCommand_next, draw_of_fits (e := s.engine) hu h]
  refine ⟨_, rfl, ?_⟩
  rw [out_of_halves rfl rfl]
  obtain ⟨hbytes, hlt⟩ := serve_gives hb s.engine
  exact ⟨hbytes, hlt, toNat_serve_cursor (e := s.engine) hc h, rfl⟩

/-- A buffered DRAW that would cross the buffer's end: it fits in the fresh buffer, which holds at least two words. -/
theorem drawCommand_crosses (hc : s.cfg.wf = true) (hu : 1 < s.cfg.engUnroll) (hb : b ≤ 16)
    (h : 8 * s.cfg.engUnroll < s.cursor.toNat + b) :
    ∃ t, drawCommand b s = .next t ∧
      t.buf.length = s.cfg.engUnroll ∧
      (∀ n, n < s.cfg.engUnroll → (t.buf.getD n 0#64).toNat = wordAfter s.cfg.engStrat s.engState.toNat n) ∧
      t.engState.toNat = stateAfter s.cfg.engStrat s.engState.toNat s.cfg.engUnroll ∧
      (∀ j, j < b → byteAt (Reference.out t) j = Reference.bufByte t.buf j) ∧
      Reference.out t < 2 ^ (8 * b) ∧ t.cursor.toNat = b ∧
      t = { s with engState := t.engState, buf := t.buf, cursor := t.cursor, outLo := t.outLo, outHi := t.outHi,
                   lastErr := .none, inflight := none } := by
  rw [drawCommand_next, draw_of_crosses (e := s.engine) hu h]
  have hlength : (refill s.cfg s.engine).buf.length = s.cfg.engUnroll := Invariant.mixSteps_length ..
  have hword (n : Nat) (hn : n < s.cfg.engUnroll) : ((refill s.cfg s.engine).buf.getD n 0#64).toNat =
      wordAfter s.cfg.engStrat s.engState.toNat n := by
    rw [refill_buf_getD hn, toNat_streamWord]
    rfl
  have hstate : (refill s.cfg s.engine).st.toNat = stateAfter s.cfg.engStrat s.engState.toNat s.cfg.engUnroll := by
    rw [refill_eq, toNat_streamState]
    rfl
  have hstart : (refill s.cfg s.engine).cursor.toNat = 0 := rfl
  obtain ⟨hbytes, hlt⟩ := serve_gives hb (refill s.cfg s.engine)
  have hcursor : (serve b (refill s.cfg s.engine)).2.cursor.toNat = 0 + b :=
    toNat_serve_cursor hc (by rw [hstart]; omega)
  simp only [hstart, Nat.zero_add] at hbytes hcursor
  refine ⟨_, rfl, hlength, hword, hstate, ?_⟩
  rw [out_of_halves rfl rfl]
  exact ⟨hbytes, hlt, hcursor, rfl⟩

end Buffered

/-- Settles O31: every DRAW is `drawCommand` of its number of bytes, which either fits or crosses the end. -/
theorem bufferedDraws : Obligations.BufferedDraws := by
  unfold Obligations.BufferedDraws
  intro s hc hu p hp
  have hb : ∀ p ∈ [(Instr.drawB, 1), (Instr.drawH, 2), (Instr.drawW, 4), (Instr.drawD, 8), (Instr.drawQ, 16)],
      p.2 ≤ 16 := by decide
  rw [exec_of_draw hp]
  exact ⟨drawCommand_fits hc hu (hb p hp), drawCommand_crosses hc hu (hb p hp)⟩

/-! ## Draws of eight bytes -/

/-- A buffering engine that has given `i` words of the stream of `seed`, the last of them from word `q - 1` of BUF: BUF
holds the next words from word `q` on, and STATE stands past them. -/
structure BufferedBefore (c : Config) (seed : Word) (i q : Nat) (e : Engine) : Prop where
  le : q ≤ c.engUnroll
  cursor : e.cursor.toNat = 8 * q
  st : e.st = streamState c.engStrat seed (i + (c.engUnroll - q))
  words : ∀ d, q + d < c.engUnroll → e.buf.getD (q + d) 0#64 = streamWord c.engStrat seed (i + d)

/-- An engine that has given `i` words of the stream of `seed`, in draws of eight bytes. -/
def StandsBefore (c : Config) (seed : Word) (i : Nat) (e : Engine) : Prop :=
  if c.engUnroll > 1 then ∃ q, BufferedBefore c seed i q e else e.st = streamState c.engStrat seed i

section EightBytes

variable {c : Config} {seed : Word} {i q : Nat} {e : Engine}

theorem standsBefore_of_buffered (hu : 1 < c.engUnroll) :
    StandsBefore c seed i e ↔ ∃ q, BufferedBefore c seed i q e := by
  rw [StandsBefore, if_pos hu]

theorem standsBefore_of_unbuffered (hu : c.engUnroll ≤ 1) :
    StandsBefore c seed i e ↔ e.st = streamState c.engStrat seed i := by
  rw [StandsBefore, if_neg (Nat.not_lt.mpr hu)]

/-- An exhausted buffer is filled with the next words of the stream. -/
theorem BufferedBefore.refill (h : BufferedBefore c seed i c.engUnroll e) :
    BufferedBefore c seed i 0 (refill c e) := by
  have hst : e.st = streamState c.engStrat seed i := by simpa using h.st
  refine ⟨Nat.zero_le _, rfl, ?_, fun d hd => ?_⟩
  · rw [refill_eq, hst]
    exact streamState_add ..
  · rw [refill_buf_getD (by omega), hst, Nat.zero_add]
    exact streamWord_add ..

/-- Eight bytes at a word's boundary are the word. -/
theorem lo64_serve_of_cursor (h : e.cursor.toNat = 8 * q) : lo64 (serve 8 e).1 = e.buf.getD q 0#64 := by
  have hbyte (j : Nat) (hj : j < 8) : Machine.bufByte e.buf (e.cursor.toNat + j) = byteOf (e.buf.getD q 0#64) j := by
    rw [h, Machine.bufByte, Nat.mul_add_div (by decide), Nat.div_eq_of_lt hj, Nat.mul_add_mod, Nat.mod_eq_of_lt hj,
      Nat.add_zero]
  apply lo64_eq_of_toNat
  rw [toNat_serve (by decide), leValue_congr hbyte, leValue_byteOf]

theorem BufferedBefore.serve (hc : c.wf = true) (h : BufferedBefore c seed i q e) (hq : q < c.engUnroll) :
    lo64 (serve 8 e).1 = streamWord c.engStrat seed i ∧ BufferedBefore c seed (i + 1) (q + 1) (serve 8 e).2 := by
  constructor
  · rw [lo64_serve_of_cursor h.cursor]
    exact h.words 0 hq
  · refine ⟨hq, ?_, ?_, fun d hd => ?_⟩
    · rw [toNat_serve_cursor hc (by rw [h.cursor]; omega), h.cursor, Nat.mul_succ]
    · have hsame : i + 1 + (c.engUnroll - (q + 1)) = i + (c.engUnroll - q) := by omega
      rw [hsame]
      exact h.st
    · rw [Nat.add_right_comm q, Nat.add_right_comm i]
      exact h.words (d + 1) (by omega)

/-- A draw of eight bytes gives the next word of the stream, in either mode (41_engine.md R86 (1)). -/
theorem StandsBefore.draw (hc : c.wf = true) (h : StandsBefore c seed i e) :
    lo64 (draw c 8 e).1 = streamWord c.engStrat seed i ∧ StandsBefore c seed (i + 1) (draw c 8 e).2 := by
  rcases Nat.lt_or_ge 1 c.engUnroll with hu | hu
  · rw [standsBefore_of_buffered hu] at h ⊢
    obtain ⟨q, hq⟩ := h
    rcases Nat.lt_or_eq_of_le hq.le with hlt | rfl
    · rw [draw_of_fits hu (by rw [hq.cursor]; omega)]
      exact (hq.serve hc hlt).imp_right fun hnext => ⟨q + 1, hnext⟩
    · rw [draw_of_crosses hu (by rw [hq.cursor]; omega)]
      exact (hq.refill.serve hc (by omega)).imp_right fun hnext => ⟨1, hnext⟩
  · rw [standsBefore_of_unbuffered hu] at h ⊢
    rw [draw_of_unbuffered hu, drawUnbuffered_narrow le_rfl, h]
    exact ⟨lo64_eq_of_toNat (toNat_lowBytes _ (by decide)), rfl⟩

end EightBytes

/-- SEED puts the engine before the first word of the seed's stream. -/
theorem standsBefore_of_seed {s t : State} (hc : s.cfg.wf = true) (h : exec .seed s = .next t) :
    t.cfg = s.cfg ∧ StandsBefore s.cfg (substSeed s.cfg s.operands.arg0) 0 t.engine := by
  rw [exec_seed, execSeed_next] at h
  cases h
  refine ⟨rfl, ?_⟩
  rcases Nat.lt_or_ge 1 s.cfg.engUnroll with hu | hu
  · refine (standsBefore_of_buffered hu).mpr ⟨s.cfg.engUnroll, le_rfl, ?_, ?_, fun d hd => by omega⟩
    · exact (toNat_cursor_of_seed hc s.cursor).trans (if_pos hu)
    · rw [Nat.sub_self]
      rfl
  · exact (standsBefore_of_unbuffered hu).mpr rfl

/-- DRAW.D gives the next word of the stream. -/
theorem exec_drawD_of_standsBefore {s : State} {seed : Word} {i : Nat} (hc : s.cfg.wf = true)
    (h : StandsBefore s.cfg seed i s.engine) :
    ∃ t, exec .drawD s = .next t ∧ t.cfg = s.cfg ∧ t.outLo = streamWord s.cfg.engStrat seed i ∧
      StandsBefore s.cfg seed (i + 1) t.engine := by
  obtain ⟨hword, hnext⟩ := h.draw hc
  exact ⟨_, (exec_drawD s).trans (drawCommand_next 8 s), rfl, hword, hnext⟩

theorem drawsD_succ {s t : State} (m : Nat) (h : exec .drawD s = .next t) :
    drawsD (m + 1) s = (drawsD m t).map (t.outLo :: ·) := by
  rw [drawsD, h]

/-- DRAW.D any number of times, from any place of a stream. -/
theorem drawsD_of_standsBefore {s : State} {seed : Word} {i : Nat} (m : Nat) (hc : s.cfg.wf = true)
    (h : StandsBefore s.cfg seed i s.engine) :
    drawsD m s = some ((List.range m).map fun n => streamWord s.cfg.engStrat seed (i + n)) := by
  induction m generalizing s i with
  | zero => rfl
  | succ m ih =>
    obtain ⟨t, hexec, hcfg, hword, hnext⟩ := exec_drawD_of_standsBefore hc h
    rw [← hcfg] at hc hnext
    rw [drawsD_succ m hexec, ih hc hnext, hcfg, hword, List.range_succ_eq_map]
    simp [Function.comp_def, Nat.add_assoc, Nat.add_comm 1]

theorem drawsD_of_seed {s t : State} (m : Nat) (hc : s.cfg.wf = true) (h : exec .seed s = .next t) :
    drawsD m t = some ((List.range m).map (streamWord s.cfg.engStrat (substSeed s.cfg s.operands.arg0))) := by
  obtain ⟨hcfg, hstands⟩ := standsBefore_of_seed hc h
  rw [← hcfg] at hc hstands
  rw [drawsD_of_standsBefore m hc hstands, hcfg]
  simp

/-- Settles O32: both blocks give the word stream of the common seed. -/
theorem eightByteDrawsDoNotDependOnBuffering : Obligations.EightByteDrawsDoNotDependOnBuffering := by
  unfold Obligations.EightByteDrawsDoNotDependOnBuffering
  intro s s' t t' m hc hc' hstrat hseed h h'
  rw [drawsD_of_seed m hc h, drawsD_of_seed m hc' h', hstrat, hseed]
  exact ⟨rfl, rfl⟩

end Sys2Proof.Draws

/-! More of rounding (00_scope.md R18). The idea: rounding to the members of an increasing sequence is monotone and
exact on them, so two roundings of one value are equal, and a value that has an encoding keeps it. -/

namespace Sys2Proof.Rounding

open Sys2Proof Sys2Proof.Machine Sys2Proof.Reference

variable {f : FloatFormat}

/-! ## Rounding is monotone and exact on the members of the sequence -/

section Sequence

variable {v : Nat → ℚ} {r r' : ℚ} {x y q : Nat}

theorem roundsTo_lower (hlo : v q ≤ r) (hmid : 2 * r < v q + v (q + 1)) : RoundsTo v r q :=
  ⟨q, hlo, by linarith, .inl ⟨rfl, .inl hmid⟩⟩

theorem roundsTo_upper (hhi : r < v (q + 1)) (hmid : v q + v (q + 1) < 2 * r) : RoundsTo v r (q + 1) :=
  ⟨q, by linarith, hhi, .inr ⟨rfl, .inl hmid⟩⟩

/-- Two values between the same neighbours round in order because a tie between them has one even side. -/
theorem RoundsTo.mono (hv : StrictMono v) (hx : RoundsTo v r x) (hy : RoundsTo v r' y) (hr : r ≤ r') : x ≤ y := by
  obtain ⟨q, hlo, -, hx⟩ := hx
  obtain ⟨q', -, hhi', hy⟩ := hy
  have hq : q ≤ q' := Nat.le_of_lt_succ (hv.lt_iff_lt.mp ((hlo.trans hr).trans_lt hhi'))
  rcases hq.lt_or_eq with hlt | rfl
  · omega
  · rcases hx with ⟨rfl, -⟩ | ⟨rfl, hx⟩
    · omega
    · rcases hy with ⟨rfl, hy⟩ | ⟨rfl, -⟩
      · rcases hx with hx | ⟨hx, hxe⟩ <;> rcases hy with hy | ⟨hy, hye⟩
        · linarith
        · linarith
        · linarith
        · omega
      · exact le_rfl

theorem RoundsTo.unique (hv : StrictMono v) (hx : RoundsTo v r x) (hy : RoundsTo v r y) : x = y :=
  (hx.mono hv hy le_rfl).antisymm (hy.mono hv hx le_rfl)

theorem RoundsTo.value_eq (hv : StrictMono v) (hx : RoundsTo v r x) (hr : ∃ n, v n = r) : v x = r := by
  obtain ⟨n, rfl⟩ := hr
  rw [hx.unique hv (roundsTo_self hv n)]

end Sequence

/-! ## The operations on encodings -/

theorem roundsTo_roundNearest (hp : 2 ≤ f.prec) {m : Nat} {e : Int}
    (hmax : (m : ℚ) * 2 ^ e ≤ floatValue f.prec f.expBits (infEncoding f - 1)) :
    RoundsTo (floatValue f.prec f.expBits) ((m : ℚ) * 2 ^ e) (roundNearest f m e) := by
  have hp1 : 1 ≤ f.prec := by omega
  rcases eq_or_ne m 0 with rfl | hm
  · simpa [roundNearest] using roundsTo_zero hp1
  · have h := roundsTo_significand hp hm e
    have hle := h.le_of_le (floatValue_strictMono hp1) hmax
    rwa [roundNearest_eq hm, min_eq_left (by omega)]

/-- An integer of at most `prec` bits, scaled by a power of two that is not too small, is the value of an encoding. -/
theorem exists_floatValue_eq (hp : 1 ≤ f.prec) {m : Nat} (hm : m < 2 ^ f.prec) {e : Int} (he : minExp f ≤ e) :
    ∃ enc, floatValue f.prec f.expBits enc = (m : ℚ) * 2 ^ e := by
  rcases eq_or_ne m 0 with rfl | hm0
  · exact ⟨0, by simp [floatValue]⟩
  have hlog : Nat.log2 m < f.prec := (Nat.log2_lt hm0).mpr hm
  have hmin : minExp f ≤ lastPlace f m e := le_max_right ..
  have hplace : lastPlace f m e ≤ e := max_le (by omega) he
  obtain ⟨d, hd⟩ := Int.le.dest hplace
  have hsig : ((m * 2 ^ d : Nat) : ℚ) = m * 2 ^ (e - lastPlace f m e) := by
    rw [show e - lastPlace f m e = d by omega, zpow_natCast]
    push_cast
    rfl
  have hlt := mul_zpow_lastPlace_lt hp m e
  have hge := lastPlace_eq_minExp_or_le hp hm0 e
  rw [← hsig, Nat.cast_lt] at hlt
  rw [← hsig, Nat.cast_le] at hge
  refine ⟨(lastPlace f m e - minExp f).toNat * 2 ^ (f.prec - 1) + m * 2 ^ d, ?_⟩
  rw [floatValue_significand hp (hge.imp_left fun h => by omega) hlt.le, hsig, mul_assoc, ← zpow_add₀ two_ne_zero]
  congr 2
  omega

theorem roundsTo_fmul (hp : 2 ≤ f.prec) {a b : Nat}
    (hmax : floatValue f.prec f.expBits a * floatValue f.prec f.expBits b ≤
      floatValue f.prec f.expBits (infEncoding f - 1)) :
    RoundsTo (floatValue f.prec f.expBits) (floatValue f.prec f.expBits a * floatValue f.prec f.expBits b)
      (fmul f a b) := by
  have hprod : floatValue f.prec f.expBits a * floatValue f.prec f.expBits b =
      ((unpack f a).1 * (unpack f b).1 : Nat) * 2 ^ ((unpack f a).2 + (unpack f b).2) := by
    rw [floatValue_eq_unpack (by omega), floatValue_eq_unpack (by omega), zpow_add₀ two_ne_zero]
    push_cast
    ring
  rw [hprod] at hmax ⊢
  exact roundsTo_roundNearest hp hmax

theorem two_pow_prec_le_largest (hf : f = binary64 ∨ f = binary32) :
    (2 : ℚ) ^ f.prec ≤ floatValue f.prec f.expBits (infEncoding f - 1) := by
  rcases hf with rfl | rfl
  · have hle := (floatValue_strictMono (f := binary64) (by decide)).monotone
      (by decide : 0x4340000000000000 ≤ infEncoding binary64 - 1)
    exact le_trans (by norm_num [floatValue, binary64]) hle
  · have hle := (floatValue_strictMono (f := binary32) (by decide)).monotone
      (by decide : 0x4B800000 ≤ infEncoding binary32 - 1)
    exact le_trans (by norm_num [floatValue, binary32]) hle

theorem two_le_prec_and_minExp_nonpos (hf : f = binary64 ∨ f = binary32) : 2 ≤ f.prec ∧ minExp f ≤ 0 := by
  rcases hf with rfl | rfl <;> decide

/-- 42_convert.md R95 for both formats. -/
theorem floatValue_ofInteger (hf : f = binary64 ∨ f = binary32) {x : Nat} (hx : x < 2 ^ f.prec) :
    floatValue f.prec f.expBits (ofInteger f x) = x := by
  obtain ⟨hp, hmin⟩ := two_le_prec_and_minExp_nonpos hf
  have hval : (x : ℚ) * 2 ^ (0 : ℤ) = x := by simp
  have hlt : (x : ℚ) < 2 ^ f.prec := by exact_mod_cast hx
  have hround := roundsTo_roundNearest hp (hval.le.trans (hlt.le.trans (two_pow_prec_le_largest hf)))
  have hexact := exists_floatValue_eq (by omega) hx hmin
  rw [hval] at hround hexact
  exact hround.value_eq (floatValue_strictMono (by omega)) hexact

end Sys2Proof.Rounding

/-! The float conversion pipeline (42_convert.md). The idea: every conversion gives the encoding to which a retained
integer times the scale constant rounds (`ScaledTo`). Rounding is monotone and keeps a representable value, so the
range of a conversion follows from its encodings at a few integers. -/

namespace Sys2Proof.Conversion

open Sys2Proof Sys2Proof.Machine Sys2Proof.Reference Sys2Proof.Rounding

variable {f : FloatFormat}

/-! ## Integers -/

/-- Settles O35: an integer of at most `prec` bits is its own significand. -/
theorem integerToFloatIsExact : Obligations.IntegerToFloatIsExact :=
  ⟨fun _ => floatValue_ofInteger (.inl rfl), fun _ => floatValue_ofInteger (.inr rfl)⟩

/-! ## Scaling an integer -/

/-- `enc` is the integer `x` times the scale constant `s`, rounded once (42_convert.md R96). -/
def ScaledTo (f : FloatFormat) (s x enc : Nat) : Prop :=
  RoundsTo (floatValue f.prec f.expBits) (x * floatValue f.prec f.expBits s) enc

/-- The model's scaling of a converted integer, by a constant that is at most 1.0. -/
theorem scaledTo_fmul (hf : f = binary64 ∨ f = binary32) {s x : Nat} (hx : x < 2 ^ f.prec)
    (hs : floatValue f.prec f.expBits s ≤ 1) : ScaledTo f s x (fmul f (ofInteger f x) s) := by
  have hlt : (x : ℚ) < 2 ^ f.prec := by exact_mod_cast hx
  have hmax : (x : ℚ) * floatValue f.prec f.expBits s ≤ floatValue f.prec f.expBits (infEncoding f - 1) :=
    calc (x : ℚ) * floatValue f.prec f.expBits s ≤ x := mul_le_of_le_one_right x.cast_nonneg hs
      _ ≤ floatValue f.prec f.expBits (infEncoding f - 1) := hlt.le.trans (two_pow_prec_le_largest hf)
  rw [← floatValue_ofInteger hf hx] at hmax
  have h := roundsTo_fmul (two_le_prec_and_minExp_nonpos hf).1 hmax
  rwa [floatValue_ofInteger hf hx] at h

namespace ScaledTo

variable {s x y enc enc' : Nat}

theorem mono (hp : 1 ≤ f.prec) (h : ScaledTo f s x enc) (h' : ScaledTo f s y enc') (hxy : x ≤ y) : enc ≤ enc' := by
  have hs : 0 ≤ floatValue f.prec f.expBits s := by
    rw [floatValue_eq_unpack hp]
    positivity
  exact RoundsTo.mono (floatValue_strictMono hp) h h' (by gcongr)

theorem unique (hp : 1 ≤ f.prec) (h : ScaledTo f s x enc) (h' : ScaledTo f s x enc') : enc = enc' :=
  RoundsTo.unique (floatValue_strictMono hp) h h'

theorem zero (hp : 1 ≤ f.prec) : ScaledTo f s 0 0 := by
  simpa [ScaledTo] using roundsTo_zero hp

theorem one (hp : 1 ≤ f.prec) : ScaledTo f s 1 s := by
  simpa [ScaledTo] using roundsTo_self (floatValue_strictMono hp) s

theorem nearestEven (hp : 1 ≤ f.prec) (h : ScaledTo f s x enc) (hfin : enc < infEncoding f) :
    NearestEven f.prec f.expBits (x * floatValue f.prec f.expBits s) enc :=
  nearestEven_of_roundsTo hp h hfin

/-- 42_convert.md R101: the least positive integer gives the scale constant. -/
theorem scale_le (hp : 1 ≤ f.prec) (h : ScaledTo f s x enc) (hx : 0 < x) : s ≤ enc :=
  (one hp).mono hp h hx

theorem eq_zero_iff (hp : 1 ≤ f.prec) (hs : 0 < s) (h : ScaledTo f s x enc) : enc = 0 ↔ x = 0 := by
  constructor
  · rintro rfl
    by_contra hx
    exact hs.not_ge (h.scale_le hp (Nat.pos_of_ne_zero hx))
  · rintro rfl
    exact h.unique hp (zero hp)

/-- 42_convert.md R100: where the integers `k` and `n` both give `top` and the integer before `k` gives less, the
integers up to `n` that give `top` are those from `k` on. -/
theorem eq_top_iff {k n top below : Nat} (hp : 1 ≤ f.prec) (h : ScaledTo f s x enc) (hn : x ≤ n)
    (hlast : ScaledTo f s n top) (hleast : ScaledTo f s k top) (hprev : ScaledTo f s (k - 1) below)
    (hbelow : below < top) : (enc = top ↔ k ≤ x) ∧ (x < k → enc ≤ below) := by
  have hlt (hx : x < k) : enc ≤ below := h.mono hp hprev (by omega)
  refine ⟨⟨fun henc => ?_, fun hx => (h.mono hp hlast hn).antisymm (hleast.mono hp h hx)⟩, hlt⟩
  by_contra hx
  have := hlt (Nat.lt_of_not_le hx)
  omega

/-- 42_convert.md R100: scaling by a power of two does not round. -/
theorem exact_of_two_zpow (hp : 1 ≤ f.prec) (h : ScaledTo f s x enc) (hx : x < 2 ^ f.prec) {e : Int}
    (hs : floatValue f.prec f.expBits s = 2 ^ e) (he : minExp f ≤ e) :
    floatValue f.prec f.expBits enc = x * 2 ^ e := by
  rw [ScaledTo, hs] at h
  exact RoundsTo.value_eq (floatValue_strictMono hp) h (exists_floatValue_eq hp hx he)

end ScaledTo

/-! ## The scale constants -/

theorem floatValue_scale64 (m : ScaleMode) : floatValue 53 11 (Machine.scale64 m) = Reference.scale64 m := by
  cases m with
  | doc => norm_num [floatValue, Machine.scale64, Reference.scale64]
  | pow2 => norm_num [floatValue, Machine.scale64, Reference.scale64]

theorem floatValue_scale32 (m : ScaleMode) : floatValue 24 8 (Machine.scale32 m) = Reference.scale32 m := by
  cases m with
  | doc => norm_num [floatValue, Machine.scale32, Reference.scale32]
  | pow2 => norm_num [floatValue, Machine.scale32, Reference.scale32]

/-- R93: S64 under DOC lies just above 1 / (2^53 - 1), which is past halfway from the encoding below. -/
theorem nearestEven_scale64_doc : NearestEven 53 11 (1 / (2 ^ 53 - 1)) (Machine.scale64 .doc) := by
  apply nearestEven_of_roundsTo (f := binary64) (by decide) _ (by decide)
  apply roundsTo_upper (q := 0x3CA0000000000000) <;> norm_num [floatValue, binary64]

/-- R93: S32 under DOC lies just below 1 / (2^21 - 1). -/
theorem nearestEven_scale32_doc : NearestEven 24 8 (1 / (2 ^ 21 - 1)) (Machine.scale32 .doc) := by
  apply nearestEven_of_roundsTo (f := binary32) (by decide) _ (by decide)
  apply roundsTo_lower <;> norm_num [floatValue, binary32, Machine.scale32]

/-- R93: in binary64 1 / (2^21 - 1) is `2 ^ -21 * (1 + 2 ^ -21 + 2 ^ -42)`. -/
theorem nearestEven_recip32_binary64 : NearestEven 53 11 (1 / (2 ^ 21 - 1)) 0x3EA0000080000400 := by
  apply nearestEven_of_roundsTo (f := binary64) (by decide) _ (by decide)
  apply roundsTo_lower <;> norm_num [floatValue, binary64]

/-- R93: that number in turn rounds to S32. -/
theorem nearestEven_scale32_of_binary64 :
    NearestEven 24 8 (floatValue 53 11 0x3EA0000080000400) (Machine.scale32 .doc) := by
  apply nearestEven_of_roundsTo (f := binary32) (by decide) _ (by decide)
  apply roundsTo_lower <;> norm_num [floatValue, binary32, Machine.scale32]

/-- Settles O34: each reciprocal is placed between two successive encodings. -/
theorem scaleConstantsAreTheRoundedReciprocals : Obligations.ScaleConstantsAreTheRoundedReciprocals :=
  ⟨nearestEven_scale64_doc, nearestEven_scale32_doc,
    ⟨_, nearestEven_recip32_binary64, nearestEven_scale32_of_binary64⟩,
    floatValue_scale64, floatValue_scale32, rfl, rfl, rfl, rfl⟩

/-! ## The conversions at the ends of their ranges -/

theorem scaledTo64_doc_last : ScaledTo binary64 (Machine.scale64 .doc) (2 ^ 53 - 1) 0x3FF0000000000000 := by
  apply roundsTo_lower <;> norm_num [floatValue, binary64, Machine.scale64]

theorem scaledTo64_doc_least_one : ScaledTo binary64 (Machine.scale64 .doc) (2 ^ 53 - 2) 0x3FF0000000000000 := by
  apply roundsTo_upper (q := 0x3FEFFFFFFFFFFFFF) <;> norm_num [floatValue, binary64, Machine.scale64]

theorem scaledTo64_doc_below_one : ScaledTo binary64 (Machine.scale64 .doc) (2 ^ 53 - 3) 0x3FEFFFFFFFFFFFFF := by
  apply roundsTo_upper (q := 0x3FEFFFFFFFFFFFFE) <;> norm_num [floatValue, binary64, Machine.scale64]

theorem scaledTo64_pow2_last : ScaledTo binary64 (Machine.scale64 .pow2) (2 ^ 53 - 1) 0x3FEFFFFFFFFFFFFF := by
  apply roundsTo_lower <;> norm_num [floatValue, binary64, Machine.scale64]

theorem scaledTo32_doc_last : ScaledTo binary32 (Machine.scale32 .doc) (2 ^ 21 - 1) 0x3F800000 := by
  apply roundsTo_upper (q := 0x3F7FFFFF) <;> norm_num [floatValue, binary32, Machine.scale32]

theorem scaledTo32_doc_below_one : ScaledTo binary32 (Machine.scale32 .doc) (2 ^ 21 - 2) 0x3F7FFFF8 := by
  apply roundsTo_upper (q := 0x3F7FFFF7) <;> norm_num [floatValue, binary32, Machine.scale32]

theorem scaledTo32_pow2_last : ScaledTo binary32 (Machine.scale32 .pow2) (2 ^ 21 - 1) 0x3F7FFFF8 := by
  apply roundsTo_lower <;> norm_num [floatValue, binary32, Machine.scale32]

/-! ## The conversion functions -/

theorem scale64_le_one (m : ScaleMode) : floatValue 53 11 (Machine.scale64 m) ≤ 1 := by
  cases m with
  | doc => norm_num [floatValue_scale64, Reference.scale64]
  | pow2 => norm_num [floatValue_scale64, Reference.scale64]

theorem scale32_le_one (m : ScaleMode) : floatValue 24 8 (Machine.scale32 m) ≤ 1 := by
  cases m with
  | doc => norm_num [floatValue_scale32, Reference.scale32]
  | pow2 => norm_num [floatValue_scale32, Reference.scale32]

/-! R94: the retained bits. -/

theorem retained64_lt (w : Word) : w.toNat / 2 ^ 11 < 2 ^ 53 := by
  have := w.isLt
  omega

theorem retained32_lt (h : Half) : h.toNat / 2 ^ 11 < 2 ^ 21 := by
  have := h.isLt
  omega

theorem scaledTo64_le_one {m : ScaleMode} {x enc : Nat} (h : ScaledTo binary64 (Machine.scale64 m) x enc)
    (hx : x < 2 ^ 53) : enc ≤ 0x3FF0000000000000 := by
  cases m with
  | doc => exact h.mono (by decide) scaledTo64_doc_last (by omega)
  | pow2 => exact (h.mono (by decide) scaledTo64_pow2_last (by omega)).trans (by decide)

theorem scaledTo32_le_one {m : ScaleMode} {x enc : Nat} (h : ScaledTo binary32 (Machine.scale32 m) x enc)
    (hx : x < 2 ^ 21) : enc ≤ 0x3F800000 := by
  cases m with
  | doc => exact h.mono (by decide) scaledTo32_doc_last (by omega)
  | pow2 => exact (h.mono (by decide) scaledTo32_pow2_last (by omega)).trans (by decide)

/-- `cvt64` rounds the top 53 bits times S64 (42_convert.md R97). -/
theorem scaledTo_cvt64 (m : ScaleMode) (w : Word) :
    ScaledTo binary64 (Machine.scale64 m) (w.toNat / 2 ^ 11) (cvt64 m w).toNat := by
  have h := scaledTo_fmul (f := binary64) (.inl rfl) (retained64_lt w) (scale64_le_one m)
  have hle := scaledTo64_le_one h (retained64_lt w)
  rw [cvt64, BitVec.toNat_ushiftRight, Nat.shiftRight_eq_div_pow, BitVec.toNat_ofNat, Nat.mod_eq_of_lt (by omega)]
  exact h

/-- `cvt32` rounds the top 21 bits of a half times S32 (42_convert.md R98). -/
theorem scaledTo_cvt32 (m : ScaleMode) (h : Half) :
    ScaledTo binary32 (Machine.scale32 m) (h.toNat / 2 ^ 11) (cvt32 m h).toNat := by
  have hs := scaledTo_fmul (f := binary32) (.inr rfl) ((retained32_lt h).trans (by decide)) (scale32_le_one m)
  have hle := scaledTo32_le_one hs (retained32_lt h)
  rw [cvt32, BitVec.toNat_ushiftRight, Nat.shiftRight_eq_div_pow, BitVec.toNat_ofNat, Nat.mod_eq_of_lt (by omega)]
  exact hs

theorem cvt64_le_one (m : ScaleMode) (w : Word) : (cvt64 m w).toNat ≤ 0x3FF0000000000000 :=
  scaledTo64_le_one (scaledTo_cvt64 m w) (retained64_lt w)

theorem cvt32_le_one (m : ScaleMode) (h : Half) : (cvt32 m h).toNat ≤ 0x3F800000 :=
  scaledTo32_le_one (scaledTo_cvt32 m h) (retained32_lt h)

theorem toNat_hi32_div (w : Word) : (hi32 w).toNat / 2 ^ 11 = w.toNat / 2 ^ 43 := by
  rw [toNat_hi32, Nat.div_div_eq_div_mul, ← Nat.pow_add]

/-! ## The commands -/

theorem nearestEven_cvt64 (m : ScaleMode) (w : Word) :
    NearestEven 53 11 ((w.toNat / 2 ^ 11 : Nat) * Reference.scale64 m) (cvt64 m w).toNat := by
  rw [← floatValue_scale64]
  exact (scaledTo_cvt64 m w).nearestEven (by decide) ((cvt64_le_one m w).trans_lt (by decide))

theorem convertsHalf_cvt32 (m : ScaleMode) (h : Half) : ConvertsHalf m h.toNat (cvt32 m h).toNat := by
  rw [ConvertsHalf, ← floatValue_scale32]
  exact (scaledTo_cvt32 m h).nearestEven (by decide) ((cvt32_le_one m h).trans_lt (by decide))

theorem toNat_setWidth_half (h : Half) : (h.setWidth 64).toNat = h.toNat :=
  BitVec.toNat_setWidth_of_le (by decide)

theorem toNat_concat32 (a b : Half) : (concat32 a b).toNat = a.toNat * 2 ^ 32 + b.toNat := by
  have ha := a.isLt
  have hb := b.isLt
  rw [concat32, BitVec.toNat_or, BitVec.toNat_shiftLeft, toNat_setWidth_half, toNat_setWidth_half, Nat.mod_eq_of_lt,
    ← Nat.shiftLeft_add_eq_or_of_lt hb, Nat.shiftLeft_eq]
  rw [Nat.shiftLeft_eq]
  omega

/-- A CVT command completes with its conversion in OUT_LO, and every field but OUT and STATUS stands. -/
theorem cvtCommand_completes (g : ScaleMode → Word → Word) (s : State) :
    ∃ t, cvtCommand g s = .next t ∧ t.outLo = g s.cfg.scaleMode s.operands.arg0 ∧
      t = { s with outLo := t.outLo, outHi := 0#64, lastErr := .none, inflight := none } :=
  ⟨_, cvtCommand_next g s, rfl, rfl⟩

/-- Settles O36: CVT.D is `cvtCommand cvt64`. -/
theorem cvtDRoundsOnce : Obligations.CvtDRoundsOnce := by
  unfold Obligations.CvtDRoundsOnce
  intro s
  obtain ⟨t, hexec, hout, hframe⟩ := cvtCommand_completes cvt64 s
  refine ⟨t, (exec_cvtD s).trans hexec, ?_, hframe⟩
  rw [hout]
  exact nearestEven_cvt64 _ _

/-- Settles O37: the half that CVT.S converts is the low one. -/
theorem cvtSConvertsTheLowHalf : Obligations.CvtSConvertsTheLowHalf := by
  unfold Obligations.CvtSConvertsTheLowHalf
  intro s
  obtain ⟨t, hexec, hout, hframe⟩ := cvtCommand_completes (fun m w => (cvt32 m (lo32 w)).setWidth 64) s
  refine ⟨t, (exec_cvtS s).trans hexec, ?_, hframe⟩
  rw [hout, toNat_setWidth_half, ← toNat_lo32]
  exact convertsHalf_cvt32 _ _

/-- Settles O38: the two halves of the result are the conversions of the two halves of the word. -/
theorem cvtS2ConvertsBothHalves : Obligations.CvtS2ConvertsBothHalves := by
  unfold Obligations.CvtS2ConvertsBothHalves
  intro s
  obtain ⟨t, hexec, hout, hframe⟩ :=
    cvtCommand_completes (fun m w => concat32 (cvt32 m (hi32 w)) (cvt32 m (lo32 w))) s
  have hlt := (cvt32 s.cfg.scaleMode (lo32 s.operands.arg0)).isLt
  have hlow : t.outLo.toNat % 2 ^ 32 = (cvt32 s.cfg.scaleMode (lo32 s.operands.arg0)).toNat := by
    rw [hout, toNat_concat32]
    omega
  have hhigh : t.outLo.toNat / 2 ^ 32 = (cvt32 s.cfg.scaleMode (hi32 s.operands.arg0)).toNat := by
    rw [hout, toNat_concat32]
    omega
  refine ⟨t, (exec_cvtS2 s).trans hexec, ?_, ?_, hframe⟩
  · rw [hlow, ← toNat_lo32]
    exact convertsHalf_cvt32 _ _
  · rw [hhigh, ← toNat_hi32]
    exact convertsHalf_cvt32 _ _

/-- Settles O39: the top 21 bits of the word are those of its high half. -/
theorem cvtSfixConvertsTheTopBits : Obligations.CvtSfixConvertsTheTopBits := by
  unfold Obligations.CvtSfixConvertsTheTopBits
  intro s
  obtain ⟨t, hexec, hout, hframe⟩ := cvtCommand_completes (fun m w => (cvtfix m w).setWidth 64) s
  have hhalf : ConvertsHalf s.cfg.scaleMode (s.operands.arg0.toNat / 2 ^ 32) t.outLo.toNat := by
    rw [hout, toNat_setWidth_half, cvtfix_eq_cvt32_hi32, ← toNat_hi32]
    exact convertsHalf_cvt32 _ _
  refine ⟨t, (exec_cvtSfix s).trans hexec, ?_, hhalf, hframe⟩
  rwa [ConvertsHalf, ← toNat_hi32, toNat_hi32_div] at hhalf

/-! ## The range of the conversions -/

theorem cvt64_mono (m : ScaleMode) (w w' : Word) (h : w.toNat ≤ w'.toNat) : (cvt64 m w).toNat ≤ (cvt64 m w').toNat :=
  (scaledTo_cvt64 m w).mono (by decide) (scaledTo_cvt64 m w') (Nat.div_le_div_right h)

theorem cvt32_mono (m : ScaleMode) (h h' : Half) (hh : h.toNat ≤ h'.toNat) :
    (cvt32 m h).toNat ≤ (cvt32 m h').toNat :=
  (scaledTo_cvt32 m h).mono (by decide) (scaledTo_cvt32 m h') (Nat.div_le_div_right hh)

theorem cvtfix_mono (m : ScaleMode) (w w' : Word) (h : w.toNat ≤ w'.toNat) :
    (cvtfix m w).toNat ≤ (cvtfix m w').toNat := by
  rw [cvtfix_eq_cvt32_hi32, cvtfix_eq_cvt32_hi32]
  refine cvt32_mono m _ _ ?_
  rw [toNat_hi32, toNat_hi32]
  exact Nat.div_le_div_right h

theorem cvt64_doc_range (w : Word) :
    (cvt64 .doc w = 0x3FF0000000000000#64 ↔ 0xFFFFFFFFFFFFF000 ≤ w.toNat) ∧
    (w.toNat < 0xFFFFFFFFFFFFF000 → (cvt64 .doc w).toNat ≤ 0x3FEFFFFFFFFFFFFF) ∧
    (w.toNat / 2 ^ 11 = 2 ^ 53 - 3 → cvt64 .doc w = 0x3FEFFFFFFFFFFFFF#64) := by
  have hw := scaledTo_cvt64 .doc w
  obtain ⟨hone, hless⟩ := hw.eq_top_iff (by decide) (Nat.le_pred_of_lt (retained64_lt w)) scaledTo64_doc_last
    scaledTo64_doc_least_one scaledTo64_doc_below_one (by decide)
  refine ⟨?_, fun h => hless (by omega), fun h => ?_⟩
  · rw [← BitVec.toNat_inj, BitVec.toNat_ofNat, hone]
    omega
  · rw [h] at hw
    exact BitVec.eq_of_toNat_eq (hw.unique (by decide) scaledTo64_doc_below_one)

theorem cvt32_doc_range (h : Half) :
    (cvt32 .doc h = 0x3F800000#32 ↔ 0xFFFFF800 ≤ h.toNat) ∧
    (h.toNat < 0xFFFFF800 → (cvt32 .doc h).toNat ≤ 0x3F7FFFF8) ∧
    (h.toNat / 2 ^ 11 = 2 ^ 21 - 2 → cvt32 .doc h = 0x3F7FFFF8#32) := by
  have hh := scaledTo_cvt32 .doc h
  obtain ⟨hone, hless⟩ := hh.eq_top_iff (by decide) (Nat.le_pred_of_lt (retained32_lt h)) scaledTo32_doc_last
    scaledTo32_doc_last scaledTo32_doc_below_one (by decide)
  refine ⟨?_, fun hlt => hless (by omega), fun hx => ?_⟩
  · rw [← BitVec.toNat_inj, BitVec.toNat_ofNat, hone]
    omega
  · rw [hx] at hh
    exact BitVec.eq_of_toNat_eq (hh.unique (by decide) scaledTo32_doc_below_one)

theorem cvtfix_doc_eq_one_iff (w : Word) : cvtfix .doc w = 0x3F800000#32 ↔ 0xFFFFF80000000000 ≤ w.toNat := by
  rw [cvtfix_eq_cvt32_hi32, (cvt32_doc_range (hi32 w)).1, toNat_hi32]
  omega

theorem cvt64_pow2_exact (w : Word) :
    floatValue 53 11 (cvt64 .pow2 w).toNat = (w.toNat / 2 ^ 11 : Nat) * (1 / 2 ^ 53) ∧
      (cvt64 .pow2 w).toNat ≤ 0x3FEFFFFFFFFFFFFF := by
  have hw := scaledTo_cvt64 .pow2 w
  have hscale : floatValue 53 11 (Machine.scale64 .pow2) = 2 ^ (-53 : ℤ) := by
    norm_num [floatValue_scale64, Reference.scale64]
  refine ⟨?_, hw.mono (by decide) scaledTo64_pow2_last (Nat.le_pred_of_lt (retained64_lt w))⟩
  refine (hw.exact_of_two_zpow (by decide) (retained64_lt w) hscale (by decide)).trans ?_
  norm_num

theorem cvt32_pow2_exact (h : Half) :
    floatValue 24 8 (cvt32 .pow2 h).toNat = (h.toNat / 2 ^ 11 : Nat) * (1 / 2 ^ 21) ∧
      (cvt32 .pow2 h).toNat ≤ 0x3F7FFFF8 := by
  have hh := scaledTo_cvt32 .pow2 h
  have hscale : floatValue 24 8 (Machine.scale32 .pow2) = 2 ^ (-21 : ℤ) := by
    norm_num [floatValue_scale32, Reference.scale32]
  refine ⟨?_, hh.mono (by decide) scaledTo32_pow2_last (Nat.le_pred_of_lt (retained32_lt h))⟩
  refine (hh.exact_of_two_zpow (by decide) ((retained32_lt h).trans (by decide)) hscale (by decide)).trans ?_
  norm_num

/-- Settles O40, part by part. -/
theorem rangeOfTheConversions : Obligations.RangeOfTheConversions :=
  ⟨cvt64_doc_range, cvt32_doc_range, cvtfix_doc_eq_one_iff, cvt64_pow2_exact, cvt32_pow2_exact, cvt64_mono,
    cvt32_mono, cvtfix_mono⟩

/-! ## Special values -/

theorem cvt64_special_values (m : ScaleMode) (w : Word) : (cvt64 m w = 0#64 ↔ w.toNat < 0x800) ∧
    (0x800 ≤ w.toNat → Machine.scale64 m ≤ (cvt64 m w).toNat ∧ (cvt64 m w).toNat ≤ 0x3FF0000000000000) := by
  have hpos : 0 < Machine.scale64 m := by cases m <;> decide
  refine ⟨?_, fun h => ⟨(scaledTo_cvt64 m w).scale_le (by decide) (by omega), cvt64_le_one m w⟩⟩
  rw [← BitVec.toNat_inj, BitVec.toNat_ofNat, Nat.zero_mod, (scaledTo_cvt64 m w).eq_zero_iff (by decide) hpos]
  omega

theorem cvt32_special_values (m : ScaleMode) (h : Half) : (cvt32 m h = 0#32 ↔ h.toNat < 0x800) ∧
    (0x800 ≤ h.toNat → Machine.scale32 m ≤ (cvt32 m h).toNat ∧ (cvt32 m h).toNat ≤ 0x3F800000) := by
  have hpos : 0 < Machine.scale32 m := by cases m <;> decide
  refine ⟨?_, fun hge => ⟨(scaledTo_cvt32 m h).scale_le (by decide) (by omega), cvt32_le_one m h⟩⟩
  rw [← BitVec.toNat_inj, BitVec.toNat_ofNat, Nat.zero_mod, (scaledTo_cvt32 m h).eq_zero_iff (by decide) hpos]
  omega

theorem cvtfix_special_values (m : ScaleMode) (w : Word) : (cvtfix m w = 0#32 ↔ w.toNat < 2 ^ 43) ∧
    (2 ^ 43 ≤ w.toNat → Machine.scale32 m ≤ (cvtfix m w).toNat ∧ (cvtfix m w).toNat ≤ 0x3F800000) := by
  obtain ⟨hzero, hrange⟩ := cvt32_special_values m (hi32 w)
  rw [toNat_hi32] at hzero hrange
  rw [cvtfix_eq_cvt32_hi32]
  exact ⟨hzero.trans (by omega), fun h => hrange (by omega)⟩

theorem cvt64_least (m : ScaleMode) : (cvt64 m 0x800#64).toNat = Machine.scale64 m :=
  (scaledTo_cvt64 m 0x800#64).unique (by decide) (ScaledTo.one (by decide))

theorem cvt32_least (m : ScaleMode) : (cvt32 m 0x800#32).toNat = Machine.scale32 m :=
  (scaledTo_cvt32 m 0x800#32).unique (by decide) (ScaledTo.one (by decide))

theorem cvtfix_least (m : ScaleMode) : (cvtfix m 0x80000000000#64).toNat = Machine.scale32 m := by
  have hhalf : hi32 0x80000000000#64 = 0x800#32 := by decide
  rw [cvtfix_eq_cvt32_hi32, hhalf, cvt32_least]

/-- Settles O41, function by function. -/
theorem conversionsAvoidSpecialValues : Obligations.ConversionsAvoidSpecialValues := fun m =>
  ⟨cvt64_special_values m, cvt32_special_values m, cvtfix_special_values m, cvt64_least m, cvt32_least m,
    cvtfix_least m⟩

end Sys2Proof.Conversion

/-! The elements of a FILL (43_fill.md R109 to R117). The idea: the elements are one sequence over the places of the
word stream, one place per word for FILL.D and one per half for FILL.S; the fix-up only starts at the second place. Each
tier of the datapath gives a run of successive places. -/

namespace Sys2Proof.Elements

open Sys2Proof Sys2Proof.Machine Sys2Proof.Reference

/-! ## The elements by their places in the word stream -/

/-- The half of the word stream at a place, low half first (43_fill.md R110). -/
def streamHalf (k : Strategy) (seed : Word) (p : Nat) : Half :=
  if p % 2 = 0 then lo32 (streamWord k seed (p / 2)) else hi32 (streamWord k seed (p / 2))

/-- The element that a FILL makes from place `p` of the word stream. -/
def elemAt (j : FillJob) (p : Nat) : Word :=
  match j.size with
  | .d => cvt64 j.scale (streamWord j.strat j.seed p)
  | .s => (cvt32 j.scale (streamHalf j.strat j.seed p)).setWidth 64

/-- The place of element 0: the fix-up drops the first half of the stream (43_fill.md R113). -/
def firstPlace (j : FillJob) : Nat := if hasFixup j then 1 else 0

theorem streamHalf_even (k : Strategy) (seed : Word) (q : Nat) :
    streamHalf k seed (2 * q) = lo32 (streamWord k seed q) := by
  have hmod : 2 * q % 2 = 0 := by omega
  have hdiv : 2 * q / 2 = q := by omega
  rw [streamHalf, if_pos hmod, hdiv]

theorem streamHalf_odd (k : Strategy) (seed : Word) (q : Nat) :
    streamHalf k seed (2 * q + 1) = hi32 (streamWord k seed q) := by
  have hmod : ¬ (2 * q + 1) % 2 = 0 := by omega
  have hdiv : (2 * q + 1) / 2 = q := by omega
  rw [streamHalf, if_neg hmod, hdiv]

theorem elemAt_of_d {j : FillJob} (h : j.size = .d) (p : Nat) :
    elemAt j p = cvt64 j.scale (streamWord j.strat j.seed p) := by
  simp [elemAt, h]

theorem elemAt_of_s {j : FillJob} (h : j.size = .s) (p : Nat) :
    elemAt j p = (cvt32 j.scale (streamHalf j.strat j.seed p)).setWidth 64 := by
  simp [elemAt, h]

theorem hasFixup_of_d {j : FillJob} (h : j.size = .d) : hasFixup j = false := by simp [hasFixup, h]

theorem hasFixup_of_s {j : FillJob} (h : j.size = .s) : hasFixup j = true ↔ j.dst % 8 = 4 := by simp [hasFixup, h]

theorem alignedElem32_eq (j : FillJob) (i : Nat) :
    alignedElem32 j i = cvt32 j.scale (streamHalf j.strat j.seed i) := by
  unfold alignedElem32 streamHalf
  split <;> rfl

/-- The fix-up value is made from the half at place 1 (42_convert.md R99), the later elements from those that follow. -/
theorem fixupElem32_eq (j : FillJob) (i : Nat) :
    fixupElem32 j i = cvt32 j.scale (streamHalf j.strat j.seed (1 + i)) := by
  cases i with
  | zero => exact cvtfix_eq_cvt32_hi32 _ _
  | succ n =>
    have hmod : (1 + (n + 1)) % 2 = n % 2 := by omega
    have hdiv : (1 + (n + 1)) / 2 = n / 2 + 1 := by omega
    simp only [fixupElem32, streamHalf, hmod, hdiv]
    split <;> rfl

/-- 43_fill.md R110, its three cases in one: element `i` is made from the `i`-th place from the first on. -/
theorem fillElem_eq_elemAt (j : FillJob) (i : Nat) : fillElem j i = elemAt j (firstPlace j + i) := by
  unfold fillElem elemAt firstPlace
  cases hsize : j.size with
  | d => simp [hasFixup_of_d hsize]
  | s =>
    cases hfix : hasFixup j with
    | true => simp [fixupElem32_eq]
    | false => simp [alignedElem32_eq]

/-! The statements' own formulas for the place and the word of an element. -/

theorem halfPlace_eq {j : FillJob} (h : j.size = .s) (i : Nat) : halfPlace j.dst i = firstPlace j + i := by
  unfold halfPlace firstPlace
  simp only [hasFixup_of_s h]
  split <;> omega

theorem fillElem_of_s {j : FillJob} (h : j.size = .s) (i : Nat) :
    fillElem j i = (cvt32 j.scale (streamHalf j.strat j.seed (halfPlace j.dst i))).setWidth 64 := by
  rw [fillElem_eq_elemAt, elemAt_of_s h, halfPlace_eq h]

theorem fillElem_of_d {j : FillJob} (h : j.size = .d) (i : Nat) :
    fillElem j i = cvt64 j.scale (streamWord j.strat j.seed i) := by
  simp [fillElem, h]

theorem halfOf_eq (j : FillJob) (i : Nat) :
    halfOf j i = (streamHalf j.strat j.seed (halfPlace j.dst i)).toNat := by
  simp only [halfOf, wordOf, streamHalf, apply_ite BitVec.toNat, toNat_lo32, toNat_hi32]

theorem wordIndex_eq_wordOf (j : FillJob) (i : Nat) : wordIndex j i = wordOf j.size j.dst i := by
  unfold wordIndex
  cases hsize : j.size with
  | d => rfl
  | s =>
    rw [wordOf, halfPlace_eq hsize, firstPlace]
    cases hasFixup j with
    | false => simp
    | true =>
      cases i with
      | zero => rfl
      | succ n => simp only [if_true]; omega

/-! ## The element values -/

/-- Settles O44: the mixer is the statements' mixer, and the places of the three cases are even and odd ones. -/
theorem elementsFollowTheWordStream : Obligations.ElementsFollowTheWordStream := by
  unfold Obligations.ElementsFollowTheWordStream
  intro c b k o q j
  refine ⟨rfl, Mixing.toNat_mix k _, fun hb => ?_, fun hb haligned => ?_, fun hb hfix => ?_⟩
  · rw [fillElem_of_d (j := j) hb]
    rfl
  · have hplace (i : Nat) : halfPlace j.dst i = i := if_neg (by rw [show j.dst = o.fdst.toNat from rfl]; omega)
    simp only [fillElem_of_s (j := j) hb, hplace, Conversion.toNat_setWidth_half, streamHalf_even, streamHalf_odd]
    exact ⟨rfl, rfl⟩
  · have hplace (i : Nat) : halfPlace j.dst i = i + 1 := if_pos hfix
    have hlow : 1 + 2 * q + 1 = 2 * (q + 1) := by omega
    have hhigh : 2 + 2 * q + 1 = 2 * (q + 1) + 1 := by omega
    simp only [fillElem_of_s (j := j) hb, hplace, Conversion.toNat_setWidth_half, hlow, hhigh, streamHalf_even,
      streamHalf_odd]
    refine ⟨?_, rfl, rfl⟩
    rw [cvtfix_eq_cvt32_hi32, ← streamHalf_odd]
    rfl

/-- Settles O45: both elements are made from place `i + 1`. -/
theorem misalignedFillDropsTheFirstElement : Obligations.MisalignedFillDropsTheFirstElement := by
  unfold Obligations.MisalignedFillDropsTheFirstElement
  intro k seed m a a' n i hfix haligned _
  have hplace : halfPlace a i = i + 1 := if_pos hfix
  have hplace' : halfPlace a' (i + 1) = i + 1 := if_neg (by omega)
  rw [fillElem_of_s rfl, fillElem_of_s rfl, hplace, hplace']

/-- Settles O46: an element is `cvt64` of its word or `cvt32` of its half, whose ranges are those of 42_convert.md
R100. -/
theorem elementsLieInTheUnitInterval : Obligations.ElementsLieInTheUnitInterval := by
  unfold Obligations.ElementsLieInTheUnitInterval
  refine fun j i => ⟨fun hsize => ?_, fun hsize => ?_⟩
  · rw [fillElem_of_d hsize]
    refine ⟨Conversion.cvt64_le_one _ _, fun hm => ?_, fun hm => ?_⟩
    · rw [hm]
      exact (Conversion.cvt64_pow2_exact _).2.trans_lt (by decide)
    · rw [hm]
      exact (Conversion.cvt64_doc_range _).1
  · rw [fillElem_of_s hsize, halfOf_eq, Conversion.toNat_setWidth_half]
    refine ⟨Conversion.cvt32_le_one _ _, fun hm => ?_, fun hm => ?_⟩
    · rw [hm]
      exact (Conversion.cvt32_pow2_exact _).2.trans_lt (by decide)
    · rw [hm, ← (Conversion.cvt32_doc_range _).1, ← BitVec.toNat_inj, ← BitVec.toNat_inj,
        Conversion.toNat_setWidth_half]
      rfl

/-! ## Runs of places -/

/-- The elements made from `n` successive places from `p` on. -/
def placeRun (j : FillJob) (p n : Nat) : List Word := (List.range' p n).map (elemAt j)

theorem placeRun_append (j : FillJob) (p n n' : Nat) :
    placeRun j p n ++ placeRun j (p + n) n' = placeRun j p (n + n') := by
  rw [placeRun, placeRun, placeRun, ← List.map_append, List.range'_append_1]

theorem take_placeRun (j : FillJob) (p : Nat) {n n' : Nat} (h : n ≤ n') :
    (placeRun j p n').take n = placeRun j p n := by
  obtain ⟨d, rfl⟩ := Nat.exists_eq_add_of_le h
  rw [← placeRun_append, List.take_left' (by simp [placeRun])]

/-- The elements of R110 are the run of `n` places from the first on. -/
theorem map_fillElem_range (j : FillJob) (n : Nat) :
    (List.range n).map (fillElem j) = placeRun j (firstPlace j) n := by
  rw [placeRun, List.range'_eq_map_range, List.map_map]
  exact List.map_congr_left fun i _ => fillElem_eq_elemAt j i

/-! ## Words converted one after the other -/

/-- How many elements are made from one raw word. -/
def perWord (b : ElemSize) : Nat :=
  match b with
  | .d => 1
  | .s => 2

theorem perWord_pos (b : ElemSize) : 0 < perWord b := by cases b <;> decide

theorem chunkElems_eq (c : Config) (b : ElemSize) : chunkElems c b = perWord b * c.fillUnroll := by
  cases b with
  | d => exact (Nat.one_mul _).symm
  | s => rfl

theorem scalarWords_append (b : ElemSize) (m : ScaleMode) (ws ws' : List Word) :
    scalarWords b m (ws ++ ws') = scalarWords b m ws ++ scalarWords b m ws' := by
  induction ws with
  | nil => rfl
  | cons w rest ih => simp only [List.cons_append, scalarWords, ih, List.append_assoc]

/-- The elements of one word of the stream are those of its places. -/
theorem scalarWord_streamWord (j : FillJob) (p : Nat) :
    scalarWord j.size j.scale (streamWord j.strat j.seed p) = placeRun j (perWord j.size * p) (perWord j.size) := by
  cases hsize : j.size with
  | d => simp [scalarWord, perWord, placeRun, elemAt_of_d hsize]
  | s => simp [scalarWord, perWord, placeRun, List.range'_succ, elemAt_of_s hsize, streamHalf_even, streamHalf_odd]

theorem scalarWords_stream (j : FillJob) (p n : Nat) :
    scalarWords j.size j.scale (mixSteps j.strat n (streamState j.strat j.seed p)).1 =
      placeRun j (perWord j.size * p) (perWord j.size * n) := by
  rw [Draws.mixSteps_eq]
  induction n with
  | zero => rfl
  | succ n ih =>
    rw [List.range_succ, List.map_append, scalarWords_append, ih, List.map_singleton, Draws.streamWord_add, scalarWords,
      scalarWords, List.append_nil, scalarWord_streamWord, Nat.mul_add, placeRun_append, Nat.mul_succ]

/-! ## The vector path -/

/-- A 32-bit lane, wide as the model holds it, converts as the half that it holds (43_fill.md R116). -/
theorem laneResult_setWidth (m : ScaleMode) (h : Half) :
    laneResult .s m (h.setWidth 64) = (cvt32 m h).setWidth 64 := by
  have hlt : h.toNat / 2 ^ 11 < 2 ^ 21 := Conversion.retained32_lt h
  have hscaled := Conversion.scaledTo_fmul (f := binary32) (.inr rfl) (hlt.trans (by decide))
    (Conversion.scale32_le_one m)
  have hle := Conversion.scaledTo32_le_one hscaled hlt
  apply BitVec.eq_of_toNat_eq
  rw [Conversion.toNat_setWidth_half, laneResult, cvt32, BitVec.toNat_ushiftRight, BitVec.toNat_ushiftRight,
    Conversion.toNat_setWidth_half, Nat.shiftRight_eq_div_pow, BitVec.toNat_ofNat, BitVec.toNat_ofNat,
    Nat.mod_eq_of_lt (by omega), Nat.mod_eq_of_lt (by omega)]

/-- A vector operation gives what the scalar path gives for the same words. -/
theorem vectorOp_eq_scalarWords (b : ElemSize) (m : ScaleMode) (ws : List Word) :
    vectorOp b m ws = scalarWords b m ws := by
  induction ws with
  | nil => cases b <;> rfl
  | cons w rest ih =>
    cases b with
    | d => exact congrArg (cvt64 m w :: ·) ih
    | s =>
      simp only [vectorOp, vectorLanes, List.flatMap_cons, List.map_append, List.map_cons, List.map_nil,
        laneResult_setWidth] at ih ⊢
      rw [scalarWords, scalarWord, ← ih]

theorem vectorOps_eq_scalarWords (b : ElemSize) (m : ScaleMode) {lanes ops : Nat} {ws : List Word}
    (h : ws.length = lanes * ops) : vectorOps b m lanes ops ws = scalarWords b m ws := by
  induction ops generalizing ws with
  | zero =>
    obtain rfl : ws = [] := List.eq_nil_of_length_eq_zero h
    rfl
  | succ k ih =>
    have hdrop : (ws.drop lanes).length = lanes * k := by rw [List.length_drop, h, Nat.mul_succ]; omega
    rw [vectorOps, vectorOp_eq_scalarWords, ih hdrop, ← scalarWords_append, List.take_append_drop]

/-! ## The tiers -/

/-- The datapath stands before word `p` of the stream. -/
def AtWord (j : FillJob) (p : Nat) (q : FillCursor) : Prop := q.st = streamState j.strat j.seed p

theorem atWord_mixSteps {j : FillJob} {p : Nat} {q : FillCursor} (h : AtWord j p q) (n left : Nat) :
    AtWord j (p + n) ⟨(mixSteps j.strat n q.st).2, left⟩ := by
  rw [AtWord, Draws.mixSteps_eq, h, streamState_add]

/-- `out` and `q'` are what a tier gives that starts before word `p` with `q.left` elements to fill: the elements of `n`
words, all of them still to fill (43_fill.md R115). -/
structure TierRun (j : FillJob) (p : Nat) (q : FillCursor) (n : Nat) (out : List Word) (q' : FillCursor) : Prop where
  atWord : AtWord j (p + n) q'
  elems : out = placeRun j (perWord j.size * p) (perWord j.size * n)
  left : q.left = perWord j.size * n + q'.left

theorem TierRun.none {j : FillJob} {p : Nat} {q : FillCursor} (h : AtWord j p q) : TierRun j p q 0 [] q :=
  ⟨h, rfl, by simp⟩

theorem TierRun.append {j : FillJob} {p n n' : Nat} {q q' q'' : FillCursor} {out out' : List Word}
    (h : TierRun j p q n out q') (h' : TierRun j (p + n) q' n' out' q'') :
    TierRun j p q (n + n') (out ++ out') q'' := by
  obtain ⟨-, helems, hleft⟩ := h
  obtain ⟨hat', helems', hleft'⟩ := h'
  refine ⟨?_, ?_, ?_⟩
  · rwa [← Nat.add_assoc]
  · rw [helems, helems', Nat.mul_add, placeRun_append, Nat.mul_add]
  · rw [hleft, hleft', Nat.mul_add, Nat.add_assoc]

/-- Whole chunks, each converted as the scalar path converts it (43_fill.md R115 (2), (3)). -/
theorem chunks_run {c : Config} {j : FillJob} {conv : List Word → List Word}
    (hconv : ∀ ws, ws.length = c.fillUnroll → conv ws = scalarWords j.size j.scale ws) {p : Nat} {q : FillCursor}
    (hq : AtWord j p q) (k : Nat) (hk : k * chunkElems c j.size ≤ q.left) :
    TierRun j p q (k * c.fillUnroll) (chunks c j conv k q).1 (chunks c j conv k q).2 := by
  induction k generalizing p q with
  | zero =>
    rw [Nat.zero_mul]
    exact .none hq
  | succ k ih =>
    rw [Nat.succ_mul] at hk
    have hchunk : TierRun j p q c.fillUnroll (conv (mixSteps j.strat c.fillUnroll q.st).1)
        ⟨(mixSteps j.strat c.fillUnroll q.st).2, q.left - chunkElems c j.size⟩ := by
      refine ⟨atWord_mixSteps hq _ _, ?_, ?_⟩
      · rw [hconv _ (Invariant.mixSteps_length ..), hq, scalarWords_stream]
      · rw [← chunkElems_eq]
        exact (Nat.add_sub_of_le (Nat.le_of_add_left_le hk)).symm
    rw [Nat.succ_mul, Nat.add_comm]
    exact hchunk.append (ih (atWord_mixSteps hq _ _) (Nat.le_sub_of_add_le hk))

theorem scalarTier_run (c : Config) {j : FillJob} {p : Nat} {q : FillCursor} (hq : AtWord j p q) :
    TierRun j p q (q.left / chunkElems c j.size * c.fillUnroll) (scalarTier c j q).1 (scalarTier c j q).2 :=
  chunks_run (fun _ _ => rfl) hq _ (Nat.div_mul_le_self _ _)

theorem vectorTier_run {c : Config} (hc : c.wf = true) {j : FillJob} {p : Nat} {q : FillCursor} (hq : AtWord j p q) :
    ∃ n, TierRun j p q n (vectorTier c j q).1 (vectorTier c j q).2 := by
  unfold vectorTier
  split
  · next hen =>
    have hlanes : c.vecLanes64 * (c.fillUnroll / c.vecLanes64) = c.fillUnroll := by
      simp only [Config.wf, Config.vecOk, hen, if_true, Bool.and_eq_true, decide_eq_true_eq] at hc
      obtain ⟨⟨⟨⟨-, -, -, hdvd⟩, -⟩, -⟩, -⟩ := hc
      exact Nat.mul_div_cancel' (Nat.dvd_of_mod_eq_zero hdvd)
    exact ⟨_, chunks_run (fun ws hws => vectorOps_eq_scalarWords _ _ (hws.trans hlanes.symm)) hq _
      (Nat.div_mul_le_self _ _)⟩
  · exact ⟨0, .none hq⟩

/-- The scalar path leaves less than a chunk. -/
theorem scalarTier_left_lt {c : Config} (hc : 0 < c.fillUnroll) (j : FillJob) {p : Nat} {q : FillCursor}
    (hq : AtWord j p q) : (scalarTier c j q).2.left < perWord j.size * c.fillUnroll := by
  have hpos : 0 < chunkElems c j.size := by
    rw [chunkElems_eq]
    exact Nat.mul_pos (perWord_pos _) hc
  have hleft := (scalarTier_run c hq).left
  have hmod := Nat.mod_lt q.left hpos
  have hdiv := Nat.div_add_mod' q.left (chunkElems c j.size)
  rw [Nat.mul_left_comm, ← chunkElems_eq] at hleft
  rw [← chunkElems_eq]
  omega

/-- The tail stops at the destination's end, within the words of its buffer (43_fill.md R115 (4)). -/
theorem tailTier_elems {j : FillJob} {p words : Nat} {q : FillCursor} (hq : AtWord j p q)
    (h : q.left ≤ perWord j.size * words) :
    (tailTier j words q).1 = placeRun j (perWord j.size * p) q.left := by
  unfold tailTier
  split
  · next hzero =>
    rw [hzero]
    rfl
  · dsimp only
    rw [hq, scalarWords_stream, take_placeRun j _ h]

/-- The three tiers after the fix-up fill whatever is left, from a whole word on. -/
theorem tiers_elems {c : Config} (hc : c.wf = true) {j : FillJob} {tail p : Nat} (htail : c.fillUnroll ≤ tail)
    {q : FillCursor} (hq : AtWord j p q) :
    (vectorTier c j q).1 ++ (scalarTier c j (vectorTier c j q).2).1 ++
        (tailTier j tail (scalarTier c j (vectorTier c j q).2).2).1 =
      placeRun j (perWord j.size * p) q.left := by
  have hunroll : 0 < c.fillUnroll := by
    simp only [Config.wf, Config.fillUnrollOk, Bool.and_eq_true, decide_eq_true_eq] at hc
    omega
  obtain ⟨n, hvector⟩ := vectorTier_run hc hq
  obtain ⟨hat, helems, hleft⟩ := hvector.append (scalarTier_run c hvector.atWord)
  have hlt := scalarTier_left_lt hunroll j hvector.atWord
  have hbuffer := Nat.mul_le_mul_left (perWord j.size) htail
  rw [tailTier_elems hat (by omega), helems, Nat.mul_add _ p, placeRun_append, ← hleft]

/-- The fix-up fills the first place where the job starts at the second half of a word, so that what is left starts with
a whole word. -/
theorem fixupTier_elems (j : FillJob) : ∃ p, AtWord j p (fixupTier j ⟨j.seed, j.count⟩).2 ∧
    (fixupTier j ⟨j.seed, j.count⟩).1 ++
        placeRun j (perWord j.size * p) (fixupTier j ⟨j.seed, j.count⟩).2.left =
      placeRun j (firstPlace j) j.count := by
  cases hfix : hasFixup j with
  | false => exact ⟨0, by simp [fixupTier, firstPlace, hfix, AtWord, streamState]⟩
  | true =>
    cases hcount : j.count with
    | zero => exact ⟨0, by simp [fixupTier, placeRun, AtWord, streamState]⟩
    | succ n =>
      have hsize : j.size = .s := by
        cases h : j.size with
        | d => simp [hasFixup_of_d h] at hfix
        | s => rfl
      have hfirst : [(cvtfix j.scale (Machine.mix j.strat j.seed).2).setWidth 64] = placeRun j 1 1 := by
        rw [cvtfix_eq_cvt32_hi32]
        simp [placeRun, elemAt_of_s hsize, streamHalf, streamWord, streamState]
      have hrest : perWord j.size * 1 = 1 + 1 := by rw [hsize]; rfl
      have htier : fixupTier j ⟨j.seed, n + 1⟩ = (placeRun j 1 1, ⟨(Machine.mix j.strat j.seed).1, n⟩) := by
        simp [fixupTier, hfix, hfirst]
      refine ⟨1, ?_, ?_⟩
      · rw [htier]
        rfl
      · rw [htier, hrest, placeRun_append, firstPlace, if_pos hfix, Nat.add_comm n]

theorem datapathFill_elems {c : Config} (hc : c.wf = true) (j : FillJob) {tail : Nat} (htail : c.fillUnroll ≤ tail) :
    (datapathFill c j tail).1 = (List.range j.count).map (fillElem j) := by
  obtain ⟨p, hat, hfixup⟩ := fixupTier_elems j
  rw [map_fillElem_range, ← hfixup, ← tiers_elems hc htail hat]
  simp only [datapathFill, List.append_assoc]

/-- Settles O52: in both configurations the elements are those of R110, which do not mention the configuration. -/
theorem datapathScheduleGivesTheElements : Obligations.DatapathScheduleGivesTheElements := by
  unfold Obligations.DatapathScheduleGivesTheElements
  intro c c' j tail tail' hc hc' htail htail'
  have helems := datapathFill_elems hc j htail
  exact ⟨helems, helems.trans (datapathFill_elems hc' j htail').symm⟩

end Sys2Proof.Elements

/-! The FILL commands as a whole (43_fill.md R108, R112). The idea: the six commands are `fillCommand` of their width
and strategy, validation decides between its three ways, and a FILL whose writes all succeed leaves `filled`, whose bytes
are known element by element. -/

namespace Sys2Proof.Fills

open Sys2Proof Sys2Proof.Machine Sys2Proof.Reference

/-! ## Validation -/

section Validation

variable {c : Config} {b : ElemSize} {o : Operands}

theorem ne_zero_of_toNat_pos {w : Word} (h : 0 < w.toNat) : w ≠ 0#64 := by
  rintro rfl
  exact absurd h (by decide)

theorem fillCheck_of_misaligned (hn : 0 < o.fcount.toNat) (h : o.fdst.toNat % elemBytes b ≠ 0) :
    fillCheck c b o = .reject .align := by
  rw [fillCheck, if_neg (ne_zero_of_toNat_pos hn), if_pos h]

theorem fillCheck_of_outside (hn : 0 < o.fcount.toNat) (halign : o.fdst.toNat % elemBytes b = 0)
    (h : 2 ^ c.addrW < o.fdst.toNat + o.fcount.toNat * elemBytes b) : fillCheck c b o = .reject .range := by
  rw [fillCheck, if_neg (ne_zero_of_toNat_pos hn), if_neg (not_not_intro halign), if_pos h]

end Validation

section Rejection

variable {s : State} {i : Instr} {b : ElemSize} {k : Strategy} {e : ErrCode}

/-- A command that fails validation is rejected at submission (60_exceptions.md R128). -/
theorem submit_of_reject (hf : fillForm i = some (b, k)) (h : fillCheck s.cfg b s.liveOperands = .reject e) :
    submit (encode i) s = s.raiseError e := by
  have hrej : rejection s.cfg i s.liveOperands = some e := by simp [rejection, hf, h]
  simp [submit, Encoding.decode_encode, hrej]

theorem step_of_reject {rest : List Event} (hwf : s.cfg.wf = true) (hidle : s.inflight = none)
    (hsub : SubmitsNext s (encode i) rest) (hf : fillForm i = some (b, k))
    (h : fillCheck s.cfg b s.liveOperands = .reject e) :
    step s = .next { popped s rest with lastErr := e, errs := true } := by
  rw [Encoding.step_submit hwf hidle hsub, submit_of_reject (s := popped s rest) hf h, Encoding.raiseError_of_idle]
  exact hidle

/-- Settles O14: the two failures of validation, in the order of 43_fill.md R108. -/
theorem invalidFillIsRejectedAtSubmission : Obligations.InvalidFillIsRejectedAtSubmission := by
  unfold Obligations.InvalidFillIsRejectedAtSubmission
  intro s rest i b k hwf hidle hsub hf hn
  refine ⟨fun halign => ?_, fun halign hrange => ?_⟩
  · exact step_of_reject hwf hidle hsub hf (fillCheck_of_misaligned hn halign)
  · exact step_of_reject hwf hidle hsub hf (fillCheck_of_outside hn halign hrange)

end Rejection

/-! ## The ways a FILL command goes -/

/-- What a FILL leaves that performs every element still to be performed (43_fill.md R112). -/
def filled (j : FillJob) (s : State) : State :=
  finishFill { s with mem := writeElems j (pending s) j.count s.mem }

section Ways

variable {s : State} {b : ElemSize} {k : Strategy}

theorem fillCommand_of_noop (h : fillCheck s.cfg b s.operands = .noop) :
    fillCommand b k s = .next (finishFill s) := by
  rw [fillCommand, h]

theorem fillCommand_of_reject {e : ErrCode} (h : fillCheck s.cfg b s.operands = .reject e) :
    fillCommand b k s = .next (s.raiseError e) := by
  rw [fillCommand, h]

theorem performFill_of_refused {j : FillJob} (hd : onDevice s.regions j = false) (hw : willBeRefused j s = true) :
    performFill j s = .next (endWithBus j s) := by
  simp [performFill, hd, hw]

theorem performFill_of_writable {j : FillJob} (hd : onDevice s.regions j = false) (hw : willBeRefused j s = false) :
    performFill j s = .next (filled j s) := by
  simp [performFill, hd, hw, filled]

end Ways

/-! ## Commands that write nothing -/

theorem fillRejects_of_fillForm {i : Instr} {b : ElemSize} {k : Strategy} (hf : fillForm i = some (b, k)) :
    FillRejects i b := fun _ hn =>
  ⟨fun halign => (exec_fill hf _).trans (fillCommand_of_reject (fillCheck_of_misaligned hn halign)),
    fun halign hrange => (exec_fill hf _).trans (fillCommand_of_reject (fillCheck_of_outside hn halign hrange))⟩

/-- Settles O48: one argument for the six commands. -/
theorem fillRejectsBadDestinations : Obligations.FillRejectsBadDestinations := by
  unfold Obligations.FillRejectsBadDestinations
  exact ⟨fillRejects_of_fillForm rfl, fillRejects_of_fillForm rfl, fillRejects_of_fillForm rfl,
    fillRejects_of_fillForm rfl, fillRejects_of_fillForm rfl, fillRejects_of_fillForm rfl⟩

theorem fillOfNoneIsNoop_of_fillForm {i : Instr} {b : ElemSize} {k : Strategy} (hf : fillForm i = some (b, k)) :
    FillOfNoneIsNoop i := fun s hn =>
  ⟨finishFill s, (exec_fill hf s).trans (fillCommand_of_noop ((fillCheck_noop_iff _ _ _).mpr hn)), rfl⟩

/-- Settles O47: n = 0 is tested before FDST. -/
theorem emptyFillIsNoop : Obligations.EmptyFillIsNoop := by
  unfold Obligations.EmptyFillIsNoop
  exact ⟨fillOfNoneIsNoop_of_fillForm rfl, fillOfNoneIsNoop_of_fillForm rfl, fillOfNoneIsNoop_of_fillForm rfl,
    fillOfNoneIsNoop_of_fillForm rfl, fillOfNoneIsNoop_of_fillForm rfl, fillOfNoneIsNoop_of_fillForm rfl⟩

/-! ## The platform's map -/

theorem pending_iff_notMem (s : State) (e : Nat) : pending s e = true ↔ e ∉ s.written := by simp [pending]

section Map

variable {s : State} {b : ElemSize}

theorem onDevice_of_noDeviceTarget (h : NoDeviceTarget s b) (k : Strategy) :
    onDevice s.regions (fillJob s.cfg b k s.operands) = false := by
  rw [← Bool.not_eq_true, Refusals.onDevice_fillJob_iff]
  rintro ⟨r, hr, hkind, hover⟩
  exact h r hr hkind hover

theorem elemRefused_iff (s : State) (b : ElemSize) (k : Strategy) (e : Nat) :
    elemRefused s.regions (fillJob s.cfg b k s.operands) e = true ↔ RefusedElement s b e :=
  Refusals.regionsTouch_iff s.regions .refuses _ _

theorem willBeRefused_iff (j : FillJob) (s : State) :
    willBeRefused j s = true ↔ ∃ e, e < j.count ∧ pending s e = true ∧ elemRefused s.regions j e = true := by
  simp [willBeRefused]

theorem willBeRefused_of_writableTarget (h : WritableTarget s b) (k : Strategy) :
    willBeRefused (fillJob s.cfg b k s.operands) s = false := by
  rw [← Bool.not_eq_true, willBeRefused_iff]
  rintro ⟨e, hlt, hpending, hrefused⟩
  exact h.2 e hlt ((pending_iff_notMem s e).mp hpending) ((elemRefused_iff s b k e).mp hrefused)

end Map

/-! ## The bytes that the element writes leave -/

section Bytes

variable (c : Config) (b : ElemSize) (k : Strategy) (o : Operands) {p : Nat → Bool} {m : Memory} {e : Nat}

theorem elemNew_writeElems (hm : m.wf = true) (he : e < o.fcount.toNat) (hp : p e = true) :
    ElemNew c b k o (writeElems (fillJob c b k o) p (fillJob c b k o).count m) e := by
  intro q hq
  have hread := read_writeElems_inside (fillJob c b k o) p (fillJob c b k o).count hm he hq
  rw [if_pos hp] at hread
  exact (congrArg BitVec.toNat hread).trans (Draws.toNat_byteOf _ q)

theorem elemOld_writeElems (hm : m.wf = true) (he : e < o.fcount.toNat) (hp : p e = false) :
    ElemOld b o m (writeElems (fillJob c b k o) p (fillJob c b k o).count m) e := by
  intro q hq
  have hread := read_writeElems_inside (fillJob c b k o) p (fillJob c b k o).count hm he hq
  rwa [hp] at hread

theorem sameOutside_writeElems (p : Nat → Bool) (m : Memory) :
    SameOutside b o m (writeElems (fillJob c b k o) p (fillJob c b k o).count m) := fun _ hx =>
  read_writeElems_outside (fillJob c b k o) p (fillJob c b k o).count m hx

end Bytes

/-! ## A FILL whose writes succeed -/

theorem fillWritesElements_of_fillForm {i : Instr} {b : ElemSize} {k : Strategy} (hf : fillForm i = some (b, k)) :
    FillWritesElements i b k := by
  intro s hm haccepted htarget
  have hexec : exec i s = .next (filled (fillJob s.cfg b k s.operands) s) := by
    rw [exec_fill hf, Refusals.fillCommand_of_accepted haccepted]
    exact performFill_of_writable (onDevice_of_noDeviceTarget htarget.1 k) (willBeRefused_of_writableTarget htarget k)
  refine ⟨_, hexec, fun e he => ⟨fun hw => ?_, fun hw => ?_⟩, ?_, ?_, rfl⟩
  · exact elemNew_writeElems _ _ _ _ hm he ((pending_iff_notMem s e).mpr hw)
  · exact elemOld_writeElems _ _ k _ hm he (by simp [pending, hw])
  · exact sameOutside_writeElems _ _ k _ _ _
  · exact writeElems_wf _ _ _ hm

/-- Settles O42: the three FILL.D commands. -/
theorem fillDWritesItsElements : Obligations.FillDWritesItsElements := by
  unfold Obligations.FillDWritesItsElements
  exact ⟨fillWritesElements_of_fillForm rfl, fillWritesElements_of_fillForm rfl, fillWritesElements_of_fillForm rfl⟩

/-- Settles O43: the three FILL.S commands. -/
theorem fillSWritesItsElements : Obligations.FillSWritesItsElements := by
  unfold Obligations.FillSWritesItsElements
  exact ⟨fillWritesElements_of_fillForm rfl, fillWritesElements_of_fillForm rfl, fillWritesElements_of_fillForm rfl⟩

/-! ## The engine and OUT -/

/-- The state with other values in STATE, CURSOR, BUF and OUT. -/
def withEngineAndOut (e : Engine) (lo hi : Word) (s : State) : State :=
  { s with engState := e.st, cursor := e.cursor, buf := e.buf, outLo := lo, outHi := hi }

/-- A FILL command keeps STATE, CURSOR, BUF and OUT, and none of its ways depends on them. -/
theorem fillCommand_withEngineAndOut {b : ElemSize} {k : Strategy} {s t : State} (e : Engine) (lo hi : Word)
    (h : fillCommand b k s = .next t) :
    t.engine = s.engine ∧ t.outLo = s.outLo ∧ t.outHi = s.outHi ∧
      fillCommand b k (withEngineAndOut e lo hi s) = .next (withEngineAndOut e lo hi t) := by
  rcases fillCommand_cases b k s with ⟨hc, h'⟩ | ⟨code, hc, h'⟩ | ⟨hc, ⟨-, h'⟩ | ⟨hd, hw, h'⟩ | ⟨hd, hw, h'⟩⟩ <;>
    rw [h'] at h <;> cases h <;> refine ⟨rfl, rfl, rfl, ?_⟩
  · exact fillCommand_of_noop (s := withEngineAndOut e lo hi s) hc
  · exact fillCommand_of_reject (s := withEngineAndOut e lo hi s) hc
  · have haccepted := (Mixing.fillCheck_proceed_iff_accepted _ _ _).mp hc
    exact (Refusals.fillCommand_of_accepted (s := withEngineAndOut e lo hi s) haccepted k).trans
      (performFill_of_refused hd hw)
  · have haccepted := (Mixing.fillCheck_proceed_iff_accepted _ _ _).mp hc
    exact (Refusals.fillCommand_of_accepted (s := withEngineAndOut e lo hi s) haccepted k).trans
      (performFill_of_writable hd hw)

/-- Settles O51: the values put in are those of an engine and of OUT. -/
theorem fillIsIndependentOfTheEngine : Obligations.FillIsIndependentOfTheEngine := by
  unfold Obligations.FillIsIndependentOfTheEngine
  intro i b k s t st lo hi cur bf hf h
  rw [exec_fill hf] at h ⊢
  obtain ⟨hengine, hlo, hhi, hother⟩ := fillCommand_withEngineAndOut ⟨st, cur, bf⟩ lo hi h
  exact ⟨congrArg Engine.st hengine, congrArg Engine.cursor hengine, congrArg Engine.buf hengine, hlo, hhi, hother⟩

end Sys2Proof.Fills

/-! The turns of a FILL in flight (43_fill.md R109, R112). The idea: what a FILL will leave (`filled`) does not change
when one of its elements is written early or its FSTATE is advanced, so no order of turns shows in the end. -/

namespace Sys2Proof.Turns

open Sys2Proof Sys2Proof.Machine Sys2Proof.Reference Sys2Proof.Fills

/-! ## One turn of the fill writer -/

theorem writerTurn_of_allowed {s : State} {j : FillJob} {e : Nat} (hj : inflightFill s = some j) (he : e < j.count)
    (hp : pending s e = true) (hd : onDevice s.regions j = false) (hr : elemRefused s.regions j e = false) :
    writerTurn e s = .next (markWritten (mixTo j (wordIndex j e + 1) { s with mem := writeElem j s.mem e }) e) := by
  simp [writerTurn, hj, he, hp, hd, hr]

theorem read_writeElem_inside (j : FillJob) {m : Memory} (hm : m.wf = true) (e : Nat) {q : Nat}
    (hq : q < elemBytes j.size) : (writeElem j m e).read (elemAddr j e + q) = byteOf (fillElem j e) q := by
  rw [writeElem, Memory.read_writeLE _ _ _ hm, if_pos (by omega), Nat.add_sub_cancel_left]

theorem read_writeElem_outside (j : FillJob) (m : Memory) {e x : Nat}
    (h : x < j.dst + e * elemBytes j.size ∨ j.dst + (e + 1) * elemBytes j.size ≤ x) :
    (writeElem j m e).read x = m.read x := by
  rw [Nat.succ_mul] at h
  exact Memory.read_writeLE_outside m _ (by unfold elemAddr; omega)

theorem elemNew_writeElem (c : Config) (b : ElemSize) (k : Strategy) (o : Operands) {m : Memory} (hm : m.wf = true)
    (e : Nat) : ElemNew c b k o (writeElem (fillJob c b k o) m e) e := fun q hq =>
  (congrArg BitVec.toNat (read_writeElem_inside (fillJob c b k o) hm e hq)).trans (Draws.toNat_byteOf _ q)

/-! FSTATE in the statements' own terms. -/

theorem stateAfter_add (k : Strategy) (seed n m : Nat) :
    stateAfter k (stateAfter k seed n) m = stateAfter k seed (n + m) := by
  induction m with
  | zero => rfl
  | succ m ih => rw [stateAfter, ih, ← Nat.add_assoc, stateAfter]

theorem stateAfter_max (k : Strategy) (seed n m : Nat) :
    stateAfter k (stateAfter k seed n) (m - n) = stateAfter k seed (max n m) := by
  rw [stateAfter_add]
  congr 1
  omega

theorem operands_of_inflight {s : State} {r : InFlight} (hr : s.inflight = some r) : s.operands = r.ops := by
  simp [State.operands, hr]

/-- Settles O53: the turn is one element's write, the mixing up to its word, and the mark. -/
theorem writerTurnWritesOneElement : Obligations.WriterTurnWritesOneElement := by
  unfold Obligations.WriterTurnWritesOneElement
  intro s rest r i b k e hwf hm hev hr hd hf haccepted hdevice hrefused he hwritten
  have hops := operands_of_inflight hr
  have hj : inflightFill s = some (fillJob s.cfg b k r.ops) :=
    inflightFill_of hr hd hf ((Mixing.fillCheck_proceed_iff_accepted _ _ _).mpr haccepted)
  have hallowed := onDevice_of_noDeviceTarget hdevice k
  have hgranted := Bool.eq_false_iff.mpr (mt (elemRefused_iff s b k e).mp hrefused)
  rw [hops] at hallowed hgranted
  have hpending := (Invariant.pending_eq_true_iff hr e).mpr hwritten
  have hturn := writerTurn_of_allowed (s := popped s rest) hj he hpending hallowed hgranted
  have hword := Elements.wordIndex_eq_wordOf (fillJob s.cfg b k r.ops) e
  rw [Invariant.markWritten_mixTo (s := popped s rest) hr, hword] at hturn
  refine ⟨_, (step_event hwf hev).trans hturn, elemNew_writeElem _ _ _ _ hm e, fun x hx => ?_, fun seed hseed => ?_,
    rfl⟩
  · exact read_writeElem_outside (fillJob s.cfg b k r.ops) s.mem hx
  · exact (Draws.toNat_streamState _ _ _).trans (by rw [popped, hseed]; exact stateAfter_max k seed _ _)

/-! ## An early element does not show in the end -/

/-- Memories that agree outside a destination and on every byte of its elements agree. -/
theorem eq_of_read_elems {j : FillJob} {m m' : Memory} {n : Nat} (hm : m.wf = true) (hm' : m'.wf = true)
    (hout : ∀ a, a < j.dst ∨ j.dst + n * elemBytes j.size ≤ a → m.read a = m'.read a)
    (hin : ∀ e q, e < n → q < elemBytes j.size → m.read (elemAddr j e + q) = m'.read (elemAddr j e + q)) : m = m' := by
  refine Memory.eq_of_read hm hm' fun a => ?_
  by_cases h : a < j.dst ∨ j.dst + n * elemBytes j.size ≤ a
  · exact hout a h
  · have hlt : a - j.dst < elemBytes j.size * n := by rw [Nat.mul_comm]; omega
    have haddr : elemAddr j ((a - j.dst) / elemBytes j.size) + (a - j.dst) % elemBytes j.size = a := by
      rw [elemAddr, Nat.add_assoc, Nat.div_add_mod']
      omega
    rw [← haddr]
    exact hin _ _ (Nat.div_lt_of_lt_mul hlt) (Nat.mod_lt _ (elemBytes_pos _))

/-- Of the elements of a FILL no two share a byte. -/
theorem read_writeElem_other (j : FillJob) (m : Memory) {e e' q : Nat} (hne : e' ≠ e) (hq : q < elemBytes j.size) :
    (writeElem j m e).read (elemAddr j e' + q) = m.read (elemAddr j e' + q) := by
  apply read_writeElem_outside
  unfold elemAddr
  rcases hne.lt_or_gt with hlt | hgt
  · have hle := Nat.mul_le_mul_right (elemBytes j.size) (show e' + 1 ≤ e from hlt)
    rw [Nat.succ_mul] at hle
    omega
  · have hle := Nat.mul_le_mul_right (elemBytes j.size) (show e + 1 ≤ e' from hgt)
    omega

/-- Writing an element early and the others later is writing them all later (43_fill.md R112: no byte is written
twice). -/
theorem writeElems_writeElem (j : FillJob) {p p' : Nat → Bool} {m : Memory} {e n : Nat} (hm : m.wf = true) (he : e < n)
    (hp : p e = true) (hother : ∀ x, x ≠ e → p' x = p x) :
    writeElems j p' n (writeElem j m e) = writeElems j p n m := by
  have hm' : (writeElem j m e).wf = true := Memory.writeLE_wf _ _ _ hm
  refine eq_of_read_elems (j := j) (n := n) (writeElems_wf _ _ _ hm') (writeElems_wf _ _ _ hm) (fun a ha => ?_)
    (fun x q hx hq => ?_)
  · have hle := Nat.mul_le_mul_right (elemBytes j.size) (show e + 1 ≤ n from he)
    have hle' := Nat.mul_le_mul_right (elemBytes j.size) he.le
    rw [read_writeElems_outside _ _ _ _ ha, read_writeElems_outside _ _ _ _ ha, read_writeElem_outside _ _ (by omega)]
  · rw [read_writeElems_inside _ _ _ hm' hx hq, read_writeElems_inside _ _ _ hm hx hq]
    by_cases hxe : x = e
    · subst hxe
      rw [read_writeElem_inside j hm x hq, if_pos hp, ite_self]
    · rw [hother x hxe, read_writeElem_other j m hxe hq]

/-! ## A FILL under way -/

/-- The FILL `j` is in flight, and every write that is left to do succeeds. -/
structure UnderWay (j : FillJob) (s : State) : Prop where
  cfg_wf : s.cfg.wf = true
  mem_wf : s.mem.wf = true
  fill : inflightFill s = some j
  allowed : onDevice s.regions j = false
  granted : willBeRefused j s = false

section UnderWay

variable {j : FillJob} {s : State}

theorem UnderWay.pop (h : UnderWay j s) (rest : List Event) : UnderWay j (popped s rest) :=
  ⟨h.cfg_wf, h.mem_wf, h.fill, h.allowed, h.granted⟩

theorem UnderWay.not_refused (h : UnderWay j s) {e : Nat} (he : e < j.count) (hp : pending s e = true) :
    elemRefused s.regions j e = false := by
  rw [← Bool.not_eq_true]
  intro hrefused
  exact absurd ((willBeRefused_iff j s).mpr ⟨e, he, hp, hrefused⟩) (by simp [h.granted])

theorem unitTurn_of_inflightFill (h : inflightFill s = some j) : unitTurn s = performFill j s := by
  obtain ⟨r, i, b, k, hr, hd, hf, hc, rfl⟩ := inflightFill_eq_some h
  have haccepted := (Mixing.fillCheck_proceed_iff_accepted _ _ _).mp hc
  rw [← operands_of_inflight hr] at haccepted ⊢
  simp only [unitTurn, hr, hd]
  rw [exec_fill hf, Refusals.fillCommand_of_accepted haccepted]

/-- The completing turn of a FILL under way. -/
theorem UnderWay.unitTurn_fills (h : UnderWay j s) : unitTurn s = .next (filled j s) := by
  rw [unitTurn_of_inflightFill h.fill, performFill_of_writable h.allowed h.granted]

/-- The state of a command in flight with other memory, FSTATE and bookkeeping: all that a turn of a FILL changes. -/
def progressed (s : State) (r : InFlight) (m : Memory) (f : Word) (ws : List Nat) (n : Nat) : State :=
  { s with mem := m, fstate := f, inflight := some { r with written := ws, mixed := n } }

theorem pending_progressed (s : State) (r : InFlight) (m : Memory) (f : Word) (ws : List Nat) (n : Nat) :
    pending (progressed s r m f ws n) = fun x => !ws.contains x := rfl

/-- Progress that leaves the same elements to be seen in the end. -/
theorem UnderWay.progress {r : InFlight} (h : UnderWay j s) (hr : s.inflight = some r)
    {m : Memory} {ws : List Nat} (f : Word) (n : Nat) (hm : m.wf = true) (hws : r.written ⊆ ws)
    (hmem : writeElems j (fun x => !ws.contains x) j.count m = writeElems j (pending s) j.count s.mem) :
    UnderWay j (progressed s r m f ws n) ∧ filled j (progressed s r m f ws n) = filled j s := by
  refine ⟨⟨h.cfg_wf, hm, ?_, h.allowed, ?_⟩, ?_⟩
  · obtain ⟨r', i, b, k, hr', hd, hf, hc, hj⟩ := inflightFill_eq_some h.fill
    obtain rfl : r = r' := Option.some.inj (hr.symm.trans hr')
    rw [hj]
    exact inflightFill_of (r := { r with written := ws, mixed := n }) rfl hd hf hc
  · rw [← Bool.not_eq_true, willBeRefused_iff]
    rintro ⟨e, he, hp, hrefused⟩
    have hnot : e ∉ r.written := fun hw => (pending_iff_notMem _ e).mp hp (hws hw)
    have hgranted := h.not_refused he ((Invariant.pending_eq_true_iff hr e).mpr hnot)
    exact absurd (hrefused.symm.trans hgranted) (by decide)
  · rw [filled, pending_progressed]
    change finishFill { progressed s r m f ws n with mem := writeElems j _ j.count m } = _
    rw [hmem]
    rfl

theorem UnderWay.mixTurn_keeps (h : UnderWay j s) :
    ∃ s', mixTurn s = .next s' ∧ UnderWay j s' ∧ filled j s' = filled j s := by
  obtain ⟨r, -, -, -, hr, -⟩ := inflightFill_eq_some h.fill
  refine ⟨_, Invariant.mixTurn_of_inflightFill h.fill, ?_⟩
  rw [mixTo_of_inflight _ _ hr]
  have hpending : (fun x => !r.written.contains x) = pending s := by
    funext x
    simp [pending, State.written, hr]
  exact h.progress hr _ _ h.mem_wf (List.Subset.refl _) (by rw [hpending])

theorem UnderWay.writerTurn_keeps (h : UnderWay j s) (e : Nat) :
    ∃ s', writerTurn e s = .next s' ∧ UnderWay j s' ∧ filled j s' = filled j s := by
  rcases writerTurn_cases e s with hturn | ⟨j', hj', he, hp, -⟩
  · exact ⟨s, hturn, h, rfl⟩
  · obtain rfl : j = j' := Option.some.inj (h.fill.symm.trans hj')
    obtain ⟨r, -, -, -, hr, -⟩ := inflightFill_eq_some h.fill
    refine ⟨_, writerTurn_of_allowed h.fill he hp h.allowed (h.not_refused he hp), ?_⟩
    rw [Invariant.markWritten_mixTo hr]
    refine h.progress hr _ _ (Memory.writeLE_wf _ _ _ h.mem_wf) (List.subset_cons_self _ _) ?_
    refine writeElems_writeElem j h.mem_wf he hp fun x hx => ?_
    simp [pending, State.written, hr, hx]

/-- Any turns of the fill writer and the datapath, and then the completing one. -/
theorem UnderWay.run_turns {turns rest : List Event}
    (hturns : ∀ e ∈ turns, e = .mixTurn ∨ ∃ x, e = .writerTurn x) (h : UnderWay j s)
    (hev : s.events = turns ++ .unitTurn :: rest) :
    Host.Core.run Sys2Proof.core (turns.length + 1) s = .next (filled j (popped s rest)) := by
  induction turns generalizing s with
  | nil =>
    rw [List.length_nil, run_one, step_event h.cfg_wf hev]
    exact (h.pop rest).unitTurn_fills
  | cons e turns ih =>
    obtain ⟨he, hturns⟩ := List.forall_mem_cons.mp hturns
    have hturn : ∃ s', step s = .next s' ∧ UnderWay j s' ∧
        filled j s' = filled j (popped s (turns ++ .unitTurn :: rest)) := by
      rw [step_event h.cfg_wf hev]
      rcases he with rfl | ⟨x, rfl⟩
      · exact (h.pop _).mixTurn_keeps
      · exact (h.pop _).writerTurn_keeps x
    obtain ⟨s', hstep, h', hsame⟩ := hturn
    have hend : filled j (popped s' rest) = filled j (popped s rest) := congrArg (popped · rest) hsame
    rw [List.length_cons, run_succ_of_next hstep, ih hturns h' (congrArg State.events hsame), hend]

end UnderWay

/-- Settles O54: both ways end in `filled`. -/
theorem anyOrderOfElementWritesGivesTheSameState : Obligations.AnyOrderOfElementWritesGivesTheSameState := by
  unfold Obligations.AnyOrderOfElementWritesGivesTheSameState
  intro s r i b k turns rest hwf hm hr hd hf haccepted htarget hturns hev
  have hops := operands_of_inflight hr
  have hproceed := (Mixing.fillCheck_proceed_iff_accepted _ _ _).mpr haccepted
  have hallowed := onDevice_of_noDeviceTarget htarget.1 k
  have hgranted := willBeRefused_of_writableTarget htarget k
  rw [hops] at hallowed hgranted
  have h : UnderWay (fillJob s.cfg b k r.ops) s := ⟨hwf, hm, inflightFill_of hr hd hf hproceed, hallowed, hgranted⟩
  have hexec : unitTurn (popped s rest) = exec i (popped s rest) := by simp [unitTurn, popped, hr, hd]
  exact ⟨_, hexec.symm.trans (h.pop rest).unitTurn_fills, h.run_turns hturns hev⟩

end Sys2Proof.Turns

/-! A command from its CMD write to its completion (60_exceptions.md R127 to R130). The idea: acceptance changes only the
in-flight record and FSTATE, and a command reads the same operands from the record as from the registers of an idle
block, so performing it after acceptance or at once is the same. -/

namespace Sys2Proof.Submission

open Sys2Proof Sys2Proof.Machine Sys2Proof.Reference

/-! ## Acceptance -/

theorem rejection_of_admissible {c : Config} {i : Instr} {o : Operands} (h : Admissible c i o) :
    rejection c i o = none := by
  cases hf : fillForm i with
  | none => simp [rejection, hf]
  | some form =>
    obtain ⟨b, k⟩ := form
    rcases h b k hf with hzero | haccepted
    · simp [rejection, hf, (fillCheck_noop_iff c b o).mpr hzero]
    · simp [rejection, hf, (Mixing.fillCheck_proceed_iff_accepted c b o).mpr haccepted]

theorem submit_of_admissible {s : State} {i : Instr} (h : Admissible s.cfg i s.liveOperands) :
    submit (encode i) s = accept (encode i) i s := by
  simp [submit, Encoding.decode_encode, rejection_of_admissible h]

theorem step_of_admissible {s : State} {i : Instr} {rest : List Event} (hwf : s.cfg.wf = true)
    (hidle : s.inflight = none) (hsub : SubmitsNext s (encode i) rest) (h : Admissible s.cfg i s.liveOperands) :
    step s = .next (accept (encode i) i (popped s rest)) :=
  (Encoding.step_submit hwf hidle hsub).trans (congrArg Host.Outcome.next (submit_of_admissible (s := popped s rest) h))

/-- Bit 0 of STATUS is BUSY (10_state.md R33). -/
theorem statusWord_bit_zero {s : State} {r : InFlight} (h : s.inflight = some r) :
    s.statusWord.getLsbD 0 = true := by
  have hodd : s.statusWord.toNat % 2 = 1 := by
    rw [Window.toNat_statusWord, Window.status_eq, h]
    simp only [reduceCtorEq, if_false]
    split_ifs <;> omega
  rw [BitVec.getLsbD, Nat.testBit_zero, hodd, decide_eq_true rfl]

/-- Settles O13: the step accepts the word, and acceptance is one record update. -/
theorem legalCommandIsAccepted : Obligations.LegalCommandIsAccepted := by
  unfold Obligations.LegalCommandIsAccepted
  intro s rest i hwf hidle hsub h
  exact ⟨_, step_of_admissible hwf hidle hsub h, statusWord_bit_zero (accept_inflight _ _ _),
    Invariant.accept_eq (encode i) i (popped s rest)⟩

/-! ## The turn of the command in flight -/

theorem unitTurn_of_inflight {s : State} {r : InFlight} {i : Instr} (hr : s.inflight = some r)
    (hd : decode r.word = .ok i) : unitTurn s = exec i s := by
  simp [unitTurn, hr, hd]

theorem unitTurn_accept {word : Half} {i : Instr} (hd : decode word = .ok i) (s : State) :
    unitTurn (accept word i s) = exec i (accept word i s) :=
  unitTurn_of_inflight (accept_inflight word i s) hd

/-- Acceptance does not read the script. -/
theorem popped_accept (word : Half) (i : Instr) (s : State) (rest : List Event) :
    popped (accept word i s) rest = accept word i (popped s rest) := by
  rw [Invariant.accept_eq, Invariant.accept_eq]
  rfl

section Frame

variable (word : Half) (i : Instr) (s : State)

@[simp] theorem accept_cfg : (accept word i s).cfg = s.cfg := by rw [Invariant.accept_eq]
@[simp] theorem accept_regions : (accept word i s).regions = s.regions := by rw [Invariant.accept_eq]
@[simp] theorem accept_events : (accept word i s).events = s.events := by rw [Invariant.accept_eq]
@[simp] theorem accept_draws : (accept word i s).draws = s.draws := by rw [Invariant.accept_eq]

end Frame

/-- A word of the opcode table is one that decodes. -/
theorem decode_of_decodeTableWord {nbits w : Nat} {i : Instr} (h : decodeTableWord nbits w = some i) :
    decode (BitVec.ofNat 32 (w % 2 ^ nbits)) = .ok i := by
  unfold decodeTableWord at h
  split at h
  · split at h
    · next hd =>
      cases h
      exact hd
    · cases h
  · cases h

theorem placeCommand_of_decode {word : Half} {i : Instr} (hd : decode word = .ok i) (s : State) :
    placeCommand word s = popped (accept word i s) (.unitTurn :: s.events) := by
  simp [placeCommand, acceptWord, hd, popped]

theorem step_placeCommand {word : Half} {i : Instr} {s : State} (hwf : s.cfg.wf = true) (hd : decode word = .ok i) :
    step (placeCommand word s) = exec i (accept word i s) := by
  have hcfg : (popped (accept word i s) (.unitTurn :: s.events)).cfg.wf = true := by
    rw [popped, accept_cfg, hwf]
  have hpop : popped (popped (accept word i s) (.unitTurn :: s.events)) s.events = accept word i s :=
    popped_accept word i s s.events
  calc step (placeCommand word s)
      = step (popped (accept word i s) (.unitTurn :: s.events)) := by rw [placeCommand_of_decode hd]
    _ = unitTurn (popped (popped (accept word i s) (.unitTurn :: s.events)) s.events) := step_event hcfg rfl
    _ = unitTurn (accept word i s) := by rw [hpop]
    _ = exec i (accept word i s) := unitTurn_accept hd s

/-- Settles O12: the command unit's turn decodes the record's word, and a placed word has that turn next. -/
theorem stepRunsTheCommandInFlight : Obligations.StepRunsTheCommandInFlight := by
  unfold Obligations.StepRunsTheCommandInFlight
  refine ⟨fun s r i hwf hr hd _ => ⟨fun hev => ?_, fun rest hev => ?_⟩, fun s nbits w i hwf htable => ?_⟩
  · exact (step_empty hwf hev).trans (unitTurn_of_inflight hr hd)
  · exact (step_event hwf hev).trans (unitTurn_of_inflight (s := popped s rest) hr hd)
  · exact step_placeCommand hwf (decode_of_decodeTableWord htable)

/-! ## The command performed after acceptance and at once -/

/-- Whatever holds of the five forms of a command holds of every command's meaning as a function of the state; a FILL's
width and strategy are those of its form. -/
theorem exec_of_forms {i : Instr} {P : (State → Host.Outcome State Fault Refusal) → Prop}
    (mixp : ∀ f, P (mixpCommand f)) (seed : P execSeed) (draw : ∀ b, P (drawCommand b)) (cvt : ∀ f, P (cvtCommand f))
    (fill : ∀ b k, fillForm i = some (b, k) → P (fillCommand b k)) : P (exec i) := by
  cases i with
  | mixpA2 | mixpA1 | mixpB => exact mixp _
  | seed => exact seed
  | drawB | drawH | drawW | drawD | drawQ => exact draw _
  | cvtD => exact cvt cvt64
  | cvtS => exact cvt fun m w => (cvt32 m (lo32 w)).setWidth 64
  | cvtS2 => exact cvt fun m w => concat32 (cvt32 m (hi32 w)) (cvt32 m (lo32 w))
  | cvtSfix => exact cvt fun m w => (cvtfix m w).setWidth 64
  | fillDA2 | fillDA1 | fillDB | fillSA2 | fillSA1 | fillSB => exact fill _ _ rfl

/-- The three ways of an accepted FILL with n > 0 (43_fill.md R112, 60_exceptions.md R133). -/
theorem performFill_eq (j : FillJob) (s : State) :
    performFill j s =
      if onDevice s.regions j then .refused .deviceTarget
      else if willBeRefused j s then .next (endWithBus j s) else .next (Fills.filled j s) := rfl

section Idle

variable {s : State} {word : Half} {i : Instr}

/-- The latched operands are those that the command finds on the idle block (10_state.md R41). -/
theorem operands_accept (hidle : s.inflight = none) : (accept word i s).operands = s.operands := by
  simp [State.operands, accept_inflight, hidle]

theorem pending_accept (hidle : s.inflight = none) : pending (accept word i s) = pending s := by
  funext e
  simp [pending, State.written, accept_inflight, hidle]

theorem finishFill_accept (s : State) (word : Half) (i : Instr) : finishFill (accept word i s) = finishFill s := by
  rw [Invariant.accept_eq]
  rfl

theorem willBeRefused_accept (hidle : s.inflight = none) (j : FillJob) :
    willBeRefused j (accept word i s) = willBeRefused j s := by
  simp only [willBeRefused, pending_accept hidle, accept_regions]

theorem endWithBus_accept (hidle : s.inflight = none) (j : FillJob) :
    endWithBus j (accept word i s) = endWithBus j s := by
  have hfree : freelyPerformed (accept word i s) = freelyPerformed s := by
    funext e
    simp only [freelyPerformed, pending_accept hidle, accept_draws]
  rw [endWithBus, hfree, Invariant.accept_eq]
  rfl

theorem filled_accept (hidle : s.inflight = none) (j : FillJob) :
    Fills.filled j (accept word i s) = Fills.filled j s := by
  rw [Fills.filled, pending_accept hidle, Invariant.accept_eq]
  rfl

theorem performFill_accept (hidle : s.inflight = none) (j : FillJob) :
    performFill j (accept word i s) = performFill j s := by
  rw [performFill_eq, performFill_eq, accept_regions, willBeRefused_accept hidle, endWithBus_accept hidle,
    filled_accept hidle]

theorem fillCommand_accept (hidle : s.inflight = none) {b : ElemSize}
    (hvalid : s.liveOperands.fcount = 0#64 ∨ FillAccepted s.cfg b s.liveOperands) (k : Strategy) :
    fillCommand b k (accept word i s) = fillCommand b k s := by
  have hlive : s.operands = s.liveOperands := by simp [State.operands, hidle]
  rw [fillCommand, fillCommand, operands_accept hidle, accept_cfg, hlive]
  rcases hvalid with hzero | haccepted
  · simp only [(fillCheck_noop_iff s.cfg b s.liveOperands).mpr hzero, finishFill_accept]
  · simp only [(Mixing.fillCheck_proceed_iff_accepted s.cfg b s.liveOperands).mpr haccepted, performFill_accept hidle]

/-- Performing an admissible command after its acceptance is performing it at once on the idle block. -/
theorem exec_accept (hidle : s.inflight = none) (h : Admissible s.cfg i s.liveOperands) :
    exec i (accept word i s) = exec i s := by
  have hops := operands_accept (word := word) (i := i) hidle
  cases hf : fillForm i with
  | some form =>
    rw [exec_fill hf, exec_fill hf]
    exact fillCommand_accept hidle (h _ _ hf) _
  | none =>
    have heq : accept word i s = { s with inflight := (accept word i s).inflight } := by
      rw [Invariant.accept_eq, if_pos hf]
    refine exec_of_forms (i := i) (P := fun g => g (accept word i s) = g s) (fun f => ?_) ?_ (fun b => ?_) (fun f => ?_)
      (fun b k hb => by simp [hf] at hb)
    · rw [mixpCommand_next, mixpCommand_next, hops, heq]
    · rw [execSeed_next, execSeed_next, hops, heq]
    · rw [drawCommand_next, drawCommand_next, heq]
      rfl
    · rw [cvtCommand_next, cvtCommand_next, hops, heq]

end Idle

/-- Settles O15: the first step accepts the command and the second performs it. -/
theorem submitThenCompleteEqualsExec : Obligations.SubmitThenCompleteEqualsExec := by
  unfold Obligations.SubmitThenCompleteEqualsExec
  intro s i w v rest hwf hidle hw hv hev h
  have hfirst := step_of_admissible hwf hidle ⟨w, v, hw, hv, hev⟩ h
  have hwf' : (accept (encode i) i (popped s (.unitTurn :: rest))).cfg.wf = true := by
    rw [accept_cfg]
    exact hwf
  rw [run_succ_of_next hfirst, run_one]
  calc step (accept (encode i) i (popped s (.unitTurn :: rest)))
      = unitTurn (popped (accept (encode i) i (popped s (.unitTurn :: rest))) rest) :=
        step_event hwf' (accept_events _ _ _)
    _ = unitTurn (accept (encode i) i (popped s rest)) := congrArg unitTurn (popped_accept _ _ _ _)
    _ = exec i (accept (encode i) i (popped s rest)) := unitTurn_accept (Encoding.decode_encode i) _
    _ = exec i (popped s rest) := exec_accept (s := popped s rest) hidle h

end Sys2Proof.Submission

/-! A FILL that a refused write ends (60_exceptions.md R133). The idea: whether the write is met when the FILL completes
or at the fill writer's turn, the FILL ends in `endWithBus`, whose memory is element writes selected freely. -/

namespace Sys2Proof.BusErrors

open Sys2Proof Sys2Proof.Machine Sys2Proof.Reference Sys2Proof.Fills

/-! ## What the end with BUS leaves -/

section Memory

variable (c : Config) (b : ElemSize) (k : Strategy) (o : Operands) {s : State}

/-- Each element is old or new, whole: the one or the other as the free choice has it. -/
theorem elemOld_or_elemNew_endWithBus (hm : s.mem.wf = true) {e : Nat} (he : e < o.fcount.toNat) :
    ElemOld b o s.mem (endWithBus (fillJob c b k o) s).mem e ∨
      ElemNew c b k o (endWithBus (fillJob c b k o) s).mem e := by
  cases hfree : freelyPerformed s e with
  | true => exact .inr (elemNew_writeElems c b k o hm he hfree)
  | false => exact .inl (elemOld_writeElems c b k o hm he hfree)

theorem sameOutside_endWithBus : SameOutside b o s.mem (endWithBus (fillJob c b k o) s).mem :=
  sameOutside_writeElems c b k o (freelyPerformed s) s.mem

end Memory

theorem endWithBus_mem_wf (j : FillJob) {s : State} (hm : s.mem.wf = true) : (endWithBus j s).mem.wf = true :=
  writeElems_wf j (freelyPerformed s) j.count hm

/-- The registers: STATUS and FSTATE change, and nothing else of the block. -/
theorem endWithBus_frame (j : FillJob) (s : State) :
    endWithBus j s = { s with
      mem := (endWithBus j s).mem, fstate := (endWithBus j s).fstate, draws := (endWithBus j s).draws
      lastErr := .bus, errs := true, inflight := none } := rfl

/-! ## The refused write met on completion -/

theorem willBeRefused_of_refusedElement {s : State} {b : ElemSize} (k : Strategy)
    (h : ∃ e, e < s.operands.fcount.toNat ∧ e ∉ s.written ∧ RefusedElement s b e) :
    willBeRefused (fillJob s.cfg b k s.operands) s = true := by
  obtain ⟨e, he, hpending, hrefused⟩ := h
  exact (willBeRefused_iff _ s).mpr
    ⟨e, he, (pending_iff_notMem s e).mpr hpending, (elemRefused_iff s b k e).mpr hrefused⟩

/-- One argument for all six FILL commands. -/
theorem fillEndsWithBus_of_fillForm {i : Instr} {b : ElemSize} {k : Strategy} (hf : fillForm i = some (b, k)) :
    FillEndsWithBus i b k := by
  intro s hm haccepted hdevice hrefused
  have hexec : exec i s = .next (endWithBus (fillJob s.cfg b k s.operands) s) := by
    rw [exec_fill hf, Refusals.fillCommand_of_accepted haccepted]
    exact performFill_of_refused (onDevice_of_noDeviceTarget hdevice k) (willBeRefused_of_refusedElement k hrefused)
  exact ⟨_, hexec, fun _ he => elemOld_or_elemNew_endWithBus _ b k _ hm he, sameOutside_endWithBus _ b k _,
    endWithBus_mem_wf _ hm, endWithBus_frame _ s⟩

/-- Settles O49: the six commands of R120 to R125 are FILLs of the named widths and strategies. -/
theorem refusedWriteEndsFillWithBus : Obligations.RefusedWriteEndsFillWithBus := by
  unfold Obligations.RefusedWriteEndsFillWithBus
  exact ⟨fillEndsWithBus_of_fillForm rfl, fillEndsWithBus_of_fillForm rfl, fillEndsWithBus_of_fillForm rfl,
    fillEndsWithBus_of_fillForm rfl, fillEndsWithBus_of_fillForm rfl, fillEndsWithBus_of_fillForm rfl⟩

/-! ## The refused write met at the fill writer's turn -/

theorem writerTurn_of_refused {s : State} {j : FillJob} {e : Nat} (hj : inflightFill s = some j) (he : e < j.count)
    (hp : pending s e = true) (hd : onDevice s.regions j = false) (hr : elemRefused s.regions j e = true) :
    writerTurn e s = .next (endWithBus j s) := by
  simp [writerTurn, hj, he, hp, hd, hr]

/-- Settles O56: the turn ends the FILL of the latched operands. -/
theorem refusedWriterTurnEndsFillWithBus : Obligations.RefusedWriterTurnEndsFillWithBus := by
  unfold Obligations.RefusedWriterTurnEndsFillWithBus
  intro s rest r i b k e hwf hm hev hr hd hf haccepted hdevice hrefused he hwritten
  have hops := Turns.operands_of_inflight hr
  have hj : inflightFill s = some (fillJob s.cfg b k r.ops) :=
    inflightFill_of hr hd hf ((Mixing.fillCheck_proceed_iff_accepted _ _ _).mpr haccepted)
  have hallowed := onDevice_of_noDeviceTarget hdevice k
  have hmet := (elemRefused_iff s b k e).mpr hrefused
  rw [hops] at hallowed hmet
  have hpending := (Invariant.pending_eq_true_iff hr e).mpr hwritten
  have hturn := writerTurn_of_refused (s := popped s rest) hj he hpending hallowed hmet
  exact ⟨_, (step_event hwf hev).trans hturn,
    fun _ hx => elemOld_or_elemNew_endWithBus (s := popped s rest) _ b k _ hm hx,
    sameOutside_endWithBus (s := popped s rest) _ b k _, endWithBus_mem_wf (s := popped s rest) _ hm,
    endWithBus_frame _ (popped s rest)⟩

end Sys2Proof.BusErrors

/-! ERRS masks nothing (60_exceptions.md R136). The idea: no command and no submission reads ERRS, and each either leaves
it or sets it, so setting it beforehand is setting it afterwards. -/

namespace Sys2Proof.ErrorFlag

open Sys2Proof Sys2Proof.Machine

/-- The state with another value of ERRS. -/
def withErrs (x : Bool) (s : State) : State := { s with errs := x }

/-- `f` applied to the next state of an outcome, stops left as they are. -/
def mapNext (f : State → State) (o : Host.Outcome State Fault Refusal) : Host.Outcome State Fault Refusal :=
  match o with
  | .next t => .next (f t)
  | .fault r => .fault r
  | .refused r => .refused r

/-- A meaning that does the same whatever ERRS holds, but that ERRS is 1 afterwards if it was before. -/
def MasksNothing (g : State → Host.Outcome State Fault Refusal) : Prop :=
  ∀ s, g (withErrs true s) = mapNext (withErrs true) (g (withErrs false s))

theorem performFill_masksNothing (j : FillJob) : MasksNothing (performFill j) := by
  intro s
  have hdevice (x : Bool) : onDevice (withErrs x s).regions j = onDevice s.regions j := rfl
  have hwill (x : Bool) : willBeRefused j (withErrs x s) = willBeRefused j s := rfl
  rw [Submission.performFill_eq, Submission.performFill_eq, hdevice, hdevice, hwill, hwill]
  cases onDevice s.regions j with
  | true => rfl
  | false =>
    cases willBeRefused j s with
    | true => rfl
    | false => rfl

theorem fillCommand_masksNothing (b : ElemSize) (k : Strategy) : MasksNothing (fillCommand b k) := by
  intro s
  have hcheck (x : Bool) : fillCheck (withErrs x s).cfg b (withErrs x s).operands = fillCheck s.cfg b s.operands := rfl
  rw [fillCommand, fillCommand, hcheck, hcheck]
  cases fillCheck s.cfg b s.operands with
  | noop => rfl
  | reject e => rfl
  | proceed => exact performFill_masksNothing (fillJob s.cfg b k s.operands) s

theorem exec_masksNothing (i : Instr) : MasksNothing (exec i) :=
  Submission.exec_of_forms (fun _ _ => rfl) (fun _ => rfl) (fun _ _ => rfl) (fun _ _ => rfl)
    fun b k _ => fillCommand_masksNothing b k

theorem submit_withErrs (word : Half) (s : State) :
    submit word (withErrs true s) = withErrs true (submit word (withErrs false s)) := by
  unfold submit
  cases decode word with
  | error e => rfl
  | ok i =>
    have hrej (x : Bool) : rejection (withErrs x s).cfg i (withErrs x s).liveOperands =
      rejection s.cfg i s.liveOperands := rfl
    simp only [hrej]
    cases rejection s.cfg i s.liveOperands with
    | some e => rfl
    | none =>
      simp only [Invariant.accept_eq]
      rfl

/-- Settles O17: the three outcomes of a command, and submission. -/
theorem errorFlagMasksNothing : Obligations.ErrorFlagMasksNothing := by
  unfold Obligations.ErrorFlagMasksNothing
  intro s i
  have hexec : exec i { s with errs := true } = mapNext (withErrs true) (exec i { s with errs := false }) :=
    exec_masksNothing i s
  refine ⟨fun t h => ?_, fun f h => ?_, fun f h => ?_, fun word => submit_withErrs word s⟩ <;> rw [hexec, h] <;> rfl

end Sys2Proof.ErrorFlag

/-! Completion (60_exceptions.md R130, 70_reset_and_hazards.md R157). The idea: with no device region nothing of an
ordinary script stops the model, each event keeps the parameters and the map, and the script's end is the command unit's
turn. -/

namespace Sys2Proof.Completion

open Sys2Proof Sys2Proof.Machine Sys2Proof.Reference

/-- No destination address is in a device region. -/
def NoDevice (s : State) : Prop := ∀ r ∈ s.regions, r.kind ≠ .device

/-- The turn answers a next state, with the parameters, the map and what is left of the script as they were. -/
def Answers (s : State) (o : Host.Outcome State Fault Refusal) : Prop :=
  ∃ t, o = .next t ∧ t.cfg = s.cfg ∧ t.regions = s.regions ∧ t.events = s.events

theorem onDevice_of_noDevice {s : State} (h : NoDevice s) (j : FillJob) : onDevice s.regions j = false := by
  rw [← Bool.not_eq_true, onDevice, Refusals.regionsTouch_iff]
  rintro ⟨r, hr, hkind, -⟩
  exact h r hr hkind

/-! ## Commands -/

theorem fillCommand_next {s : State} (h : NoDevice s) (b : ElemSize) (k : Strategy) :
    ∃ t, fillCommand b k s = .next t := by
  rcases fillCommand_cases b k s with ⟨-, h'⟩ | ⟨e, -, h'⟩ | ⟨-, ⟨hdevice, -⟩ | ⟨-, -, h'⟩ | ⟨-, -, h'⟩⟩
  · exact ⟨_, h'⟩
  · exact ⟨_, h'⟩
  · rw [onDevice_of_noDevice h] at hdevice
    cases hdevice
  · exact ⟨_, h'⟩
  · exact ⟨_, h'⟩

/-- Only a device region stops a command. -/
theorem exec_next {s : State} (h : NoDevice s) (i : Instr) : ∃ t, exec i s = .next t :=
  Submission.exec_of_forms (i := i) (P := fun g => ∃ t, g s = .next t) (fun f => ⟨_, mixpCommand_next f s⟩)
    ⟨_, execSeed_next s⟩ (fun b => ⟨_, drawCommand_next b s⟩) (fun f => ⟨_, cvtCommand_next f s⟩)
    fun b k _ => fillCommand_next h b k

/-- The command unit's turn ends whatever is in flight. -/
theorem unitTurn_completes {s : State} (h : NoDevice s) : ∃ t, unitTurn s = .next t ∧ t.inflight = none := by
  rcases unitTurn_cases s with ⟨hidle, hturn⟩ | ⟨r, i, -, -, hturn⟩ | ⟨r, e, -, -, hturn⟩
  · exact ⟨s, hturn, hidle⟩
  · obtain ⟨t, ht⟩ := exec_next h i
    obtain ⟨-, -, -, -, -, -, -, -, -, hidle⟩ := exec_next_frame ht
    exact ⟨t, hturn.trans ht, hidle⟩
  · exact ⟨_, hturn, rfl⟩

/-! ## Events -/

section Events

variable {s : State}

theorem unitTurn_answers (h : NoDevice s) : Answers s (unitTurn s) := by
  rcases unitTurn_cases s with ⟨-, hturn⟩ | ⟨r, i, -, -, hturn⟩ | ⟨r, e, -, -, hturn⟩
  · exact ⟨s, hturn, rfl, rfl, rfl⟩
  · obtain ⟨t, ht⟩ := exec_next h i
    obtain ⟨hcfg, -, -, -, -, -, hregions, hevents, -, -⟩ := exec_next_frame ht
    exact ⟨t, hturn.trans ht, hcfg, hregions, hevents⟩
  · exact ⟨_, hturn, rfl, rfl, rfl⟩

theorem writerTurn_answers (h : NoDevice s) (e : Nat) : Answers s (writerTurn e s) := by
  rcases writerTurn_cases e s with hturn | ⟨j, -, -, -, ⟨hdevice, -⟩ | ⟨-, -, hturn⟩ | ⟨-, -, hturn⟩⟩
  · exact ⟨s, hturn, rfl, rfl, rfl⟩
  · rw [onDevice_of_noDevice h] at hdevice
    cases hdevice
  · exact ⟨_, hturn, rfl, rfl, rfl⟩
  · exact ⟨_, hturn, by simp, by simp, by simp⟩

theorem mixTurn_answers (s : State) : Answers s (mixTurn s) := by
  rcases mixTurn_cases s with ⟨-, hturn⟩ | ⟨j, r, -, -, hturn⟩ <;> exact ⟨_, hturn, rfl, rfl, rfl⟩

theorem submit_keeps (word : Half) (s : State) :
    (submit word s).cfg = s.cfg ∧ (submit word s).regions = s.regions ∧ (submit word s).events = s.events := by
  rcases submit_cases word s with ⟨-, h⟩ | ⟨i, e, -, -, h⟩ | ⟨i, -, -, h⟩ <;> rw [h] <;> simp

theorem writeWindow_keeps (s : State) (w : Width) (off : BitVec 8) (v : Word) :
    (writeWindow s w off v).cfg = s.cfg ∧ (writeWindow s w off v).regions = s.regions ∧
      (writeWindow s w off v).events = s.events := by
  rcases writeWindow_cases s w off v with h | h | ⟨-, h⟩ | ⟨-, h⟩ | ⟨-, x, h⟩ | ⟨-, x, h⟩ | ⟨-, x, h⟩ | ⟨-, x, h⟩ <;>
    rw [h]
  case inr.inr.inr.inl => exact submit_keeps _ s
  all_goals exact ⟨rfl, rfl, rfl⟩

theorem handleEvent_answers (h : NoDevice s) {e : Event} (he : e.ordinary = true) : Answers s (handleEvent e s) := by
  cases e with
  | read w off => exact ⟨_, if_pos he, rfl, rfl, rfl⟩
  | write w off v => exact ⟨_, if_pos he, writeWindow_keeps s w off v⟩
  | unitTurn => exact unitTurn_answers h
  | writerTurn i => exact writerTurn_answers h i
  | mixTurn => exact mixTurn_answers s
  | reset | platform | destRead | destWrite => cases he

end Events

/-! ## Scripts -/

/-- Behind an ordinary script, with no device region, comes the command unit's turn, and then nothing is in flight. -/
theorem run_script_completes {evs : List Event} (hord : ∀ e ∈ evs, e.ordinary = true) {s : State}
    (hwf : s.cfg.wf = true) (hdevice : NoDevice s) (hev : s.events = evs) :
    ∃ t : State, Host.Core.run Sys2Proof.core (evs.length + 1) s = .next t ∧ t.inflight = none := by
  induction evs generalizing s with
  | nil =>
    obtain ⟨t, hturn, hidle⟩ := unitTurn_completes hdevice
    exact ⟨t, (run_one s).trans ((step_empty hwf hev).trans hturn), hidle⟩
  | cons e rest ih =>
    obtain ⟨he, hord⟩ := List.forall_mem_cons.mp hord
    obtain ⟨t, hturn, hcfg, hregions, hevents⟩ := handleEvent_answers (s := popped s rest) hdevice he
    have hdevice' : NoDevice t := by
      rw [NoDevice, hregions]
      exact hdevice
    obtain ⟨u, hrun, hidle⟩ := ih hord (hcfg ▸ hwf) hdevice' hevents
    exact ⟨u, (run_succ_of_next ((step_event hwf hev).trans hturn)).trans hrun, hidle⟩

/-- Settles O16: the whole script and one step more; of the invariant only the parameters matter here. -/
theorem acceptedCommandCompletes : Obligations.AcceptedCommandCompletes := by
  unfold Obligations.AcceptedCommandCompletes
  rintro s ⟨hwf, -⟩ ⟨hord, hdevice⟩ -
  exact ⟨s.events.length + 1, Nat.succ_pos _, le_rfl, run_script_completes hord hwf hdevice rfl⟩

end Sys2Proof.Completion

/-! Reset (70_reset_and_hazards.md R146 to R148). The idea: reset puts the registers of the block just built over the
state and keeps the rest, and a FILL that it abandons leaves the memory that a bus error would leave. -/

namespace Sys2Proof.Resets

open Sys2Proof Sys2Proof.Machine Sys2Proof.Reference

/-! ## The registers -/

/-- Only CURSOR needs a well-formed configuration: it holds 8N in ten bits (10_state.md R27). -/
theorem resetOf_atReset {c : Config} (hc : c.wf = true) : AtReset c (State.resetOf c) := by
  have hcursor : (State.resetOf c).cursor.toNat = if c.engUnroll > 1 then 8 * c.engUnroll else 0 := by
    by_cases hu : c.engUnroll > 1
    · simp [State.resetOf, hu, Invariant.toNat_cursor_of_le hc le_rfl]
    · simp [State.resetOf, hu]
  exact ⟨rfl, rfl, rfl, rfl, rfl, rfl, rfl, rfl, rfl, rfl, hcursor, rfl, rfl, rfl⟩

theorem resetBlock_atReset {s : State} (hwf : s.cfg.wf = true) : AtReset s.cfg (resetBlock s) := resetOf_atReset hwf

/-! ## The step at a reset -/

/-- What a reset leaves that abandons the FILL `j` (70_reset_and_hazards.md R147). -/
def abandoned (j : FillJob) (s : State) : State :=
  resetBlock { s with mem := writeElems j (freelyPerformed s) j.count s.mem }

/-- Both ends draw which of the elements not performed yet are written (60_exceptions.md R133). -/
theorem abandoned_mem (j : FillJob) (s : State) : (abandoned j s).mem = (endWithBus j s).mem := rfl

theorem abandoned_atReset {s : State} (hwf : s.cfg.wf = true) (j : FillJob) : AtReset s.cfg (abandoned j s) :=
  resetBlock_atReset (s := { s with mem := writeElems j (freelyPerformed s) j.count s.mem }) hwf

section Step

variable {s : State} {rest : List Event}

theorem step_reset_of_no_fill (hwf : s.cfg.wf = true) (hev : s.events = .reset :: rest) (hj : inflightFill s = none) :
    step s = .next (resetBlock (popped s rest)) := by
  have hturn : resetTurn (popped s rest) = .next (resetBlock (popped s rest)) := by
    rcases resetTurn_cases (popped s rest) with ⟨-, h⟩ | ⟨j, hj', -⟩
    · exact h
    · cases hj.symm.trans hj'
  exact (step_event hwf hev).trans hturn

theorem step_reset_of_fill (hwf : s.cfg.wf = true) (hev : s.events = .reset :: rest) {j : FillJob}
    (hj : inflightFill s = some j) (hd : onDevice s.regions j = false) :
    step s = .next (abandoned j (popped s rest)) := by
  have hturn : resetTurn (popped s rest) = .next (abandoned j (popped s rest)) := by
    rcases resetTurn_cases (popped s rest) with ⟨hj', -⟩ | ⟨j', hj', ⟨hd', -⟩ | ⟨-, h⟩⟩
    · cases hj.symm.trans hj'
    · cases hj.symm.trans hj'
      cases hd.symm.trans hd'
    · cases hj.symm.trans hj'
      exact h
  exact (step_event hwf hev).trans hturn

end Step

theorem onDevice_of_inflight {s : State} {r : InFlight} {b : ElemSize} (hr : s.inflight = some r)
    (h : NoDeviceTarget s b) (k : Strategy) : onDevice s.regions (fillJob s.cfg b k r.ops) = false := by
  rw [← Turns.operands_of_inflight hr]
  exact Fills.onDevice_of_noDeviceTarget h k

/-! ## The idle block -/

theorem unitTurn_of_idle {s : State} (h : s.inflight = none) : unitTurn s = .next s := by
  rcases unitTurn_cases s with ⟨-, hturn⟩ | ⟨r, i, hr, -⟩ | ⟨r, e, hr, -⟩
  · exact hturn
  · cases h.symm.trans hr
  · cases h.symm.trans hr

/-! ## The obligations -/

/-- Settles O1: a later reset either finds no FILL with elements to write or abandons one that no device region bars. -/
theorem resetGivesTabulatedValues : Obligations.ResetGivesTabulatedValues := by
  unfold Obligations.ResetGivesTabulatedValues
  refine ⟨fun _ hc => resetOf_atReset hc, rfl, fun s rest hwf hev htarget => ?_⟩
  cases hj : inflightFill s with
  | none =>
    exact ⟨_, step_reset_of_no_fill hwf hev hj, resetBlock_atReset (s := popped s rest) hwf, rfl, rfl, rfl,
      fun _ => rfl⟩
  | some j =>
    obtain ⟨r, i, b, k, hr, hd, hf, hc, rfl⟩ := inflightFill_eq_some hj
    have haccepted := (Mixing.fillCheck_proceed_iff_accepted _ _ _).mp hc
    have hallowed := onDevice_of_inflight hr (htarget r i b k hr hd hf haccepted) k
    refine ⟨_, step_reset_of_fill hwf hev hj hallowed, abandoned_atReset (s := popped s rest) hwf _, rfl, rfl, rfl,
      fun hidle => ?_⟩
    cases hr.symm.trans hidle

/-- Settles O3: the memory of an abandoned FILL is that of `endWithBus`; without elements to write no memory is
written. -/
theorem resetDuringFillLeavesWholeElements : Obligations.ResetDuringFillLeavesWholeElements := by
  unfold Obligations.ResetDuringFillLeavesWholeElements
  intro s rest r i hwf hm hev hr hd
  refine ⟨fun b k hf haccepted htarget => ?_, fun hnothing => ?_⟩
  · have hj : inflightFill s = some (fillJob s.cfg b k r.ops) :=
      inflightFill_of hr hd hf ((Mixing.fillCheck_proceed_iff_accepted _ _ _).mpr haccepted)
    refine ⟨_, step_reset_of_fill hwf hev hj (onDevice_of_inflight hr htarget k),
      abandoned_atReset (s := popped s rest) hwf _, ?_⟩
    rw [abandoned_mem]
    exact ⟨BusErrors.sameOutside_endWithBus (s := popped s rest) _ b k _,
      BusErrors.endWithBus_mem_wf (s := popped s rest) _ hm,
      fun _ he => BusErrors.elemOld_or_elemNew_endWithBus (s := popped s rest) _ b k _ hm he⟩
  · have hj : inflightFill s = none := by
      rcases hnothing with hf | hzero
      · exact Mixing.inflightFill_of_other hr hd hf
      · exact Mixing.inflightFill_of_empty hr hzero
    exact ⟨_, step_reset_of_no_fill hwf hev hj, resetBlock_atReset (s := popped s rest) hwf, rfl⟩

/-- Settles O4: with an empty script a step is the command unit's turn. -/
theorem idleBlockWaits : Obligations.IdleBlockWaits := by
  unfold Obligations.IdleBlockWaits
  exact fun s hwf hidle hev => (step_empty hwf hev).trans (unitTurn_of_idle hidle)

end Sys2Proof.Resets
